-- ==== Sys2Proof/Config.lean ====
section
/-! DEFINITION. The parameters of 00_scope.md R6 (fixed by the source) and R7 (the spec's, with its defaults), and the names of
the pixel codec families that one of them lists. -/

namespace Sys2Proof

/-- The pixel codec families, in the order of the `FAM` select 0 to 3 (R73). -/
inductive Family where
  | a
  | a6
  | b
  | c
  deriving DecidableEq, Repr

end Sys2Proof

namespace Sys2Proof.Config

/-- `AW` (R7): width in bits of a byte address and of `PIX_BASE`, `BLOB_BASE`, `STRIDE`, `BLOB_SIZE`, `OUT_LEN` (`Addr`), and what the
size of the memory space is a power of. -/
abbrev aw : Nat := 32

/-- `DIMW` (R7): width in bits of `WIDTH`, `HEIGHT`, `ERR_INFO.STRIPE`, `WARN_CNT` (R35, R36, R43, R44) and of a stripe index
(`Dim`). -/
abbrev dimw : Nat := 16

/-- `NINST` (R7, R231): one engine; `State` is one engine's state (log 20). -/
def ninst : Nat := 1

/-- The number of bytes of the memory space, 2^`AW` (R50). -/
def addrSpace : Nat := 2 ^ aw

/-- How Family A's 3-bit delta field spells a delta (R7 `DELTA_CODING`, R82, U19). -/
inductive DeltaCoding where
  /-- field = delta + 4 -/
  | excess4
  /-- field = delta mod 8 (recorded and refused by the spec, D10) -/
  | twosComplement
  deriving DecidableEq, Repr

/-- `DELTA_CODING` (R7), default `excess4` (log 8). -/
def deltaCoding : DeltaCoding := .excess4

/-- `SEL_ORDER` (R7, R152): an earlier family wins a tie. -/
def selOrder : List Family := [.a, .a6, .b, .c]

/-- `SMAP_OFS_BIAS` (R7, R76), default 0 (90_conflicts.md C1). -/
def smapOfsBias : Nat := 0

/-- `RUN_THRESHOLD` (R6): shortest run sent through Family A's run-length escape. -/
def runThreshold : Nat := 13

/-- `RUN_MAX` (R6): largest count of one run-length escape. -/
def runMax : Nat := 255

/-- `MRUN_MIN` (R6): shortest mask repeat run. -/
def mrunMin : Nat := 3

/-- `MRUN_MAX` (R6): largest count of one mask run. -/
def mrunMax : Nat := 127

/-- The stripe encoders and decoders visit rows of 8 pixels, `STRIPE_W` (R6). -/
def stripeW : Nat := 8

/-- What a byte of memory that nothing has written reads as: 0. DESIGN CHOICE (log 5): R48 says only that memory is not
changed by reset. -/
def unlistedByte : BitVec 8 := 0

end Sys2Proof.Config
end

