-- ==== Sys2Proof/Word.lean ====
section
/-! DEFINITION. The widths of the engine's data: bytes (spec 00_scope.md section 6), the 32-bit words of the register
window (10_state.md R30), addresses of `AW` bits and dimensions of `DIMW` bits (R7). -/

namespace Sys2Proof

/-- A pixel, a type byte, a run header or any byte in memory (00_scope.md, "Widths"). -/
abbrev Byte := BitVec 8

/-- A host-visible register as it is read or written, and an offset in the register window (R30). -/
abbrev Word := BitVec 32

/-- A byte address, a stride or a byte length: `AW` bits (R7). -/
abbrev Addr := BitVec Config.aw

/-- A width, a height, a stripe index or a count of stripes: `DIMW` bits (R7). -/
abbrev Dim := BitVec Config.dimw

end Sys2Proof
end

