-- ==== Sys2Proof/Syntax.lean ====
section
/-! DEFINITION. The instructions of the codec engine: one constructor for each of the 81 rows of
spec/opcode_table.json (30_encoding.md R97), with the operands the rules give it. -/

namespace Sys2Proof

/-- The eight formats of the opcode table (R97). The formats share numbers (1 is `ENC_IMAGE`, `BP.WRITE_BIT`,
`BU.FILL`, `SELECT` and a literal code): which one applies is said by where the number is presented, not by the number. -/
inductive Format where
  /-- Low 8 bits of a `CMD` write (R70). -/
  | cmd
  /-- The Bit Packer's operation select (R71). -/
  | bpop
  /-- The Bit Unpacker's operation select (R72). -/
  | buop
  /-- The operation select of the other components (R73). -/
  | uop
  /-- The first byte of a stripe record (R74). -/
  | type
  /-- A Family A or A6 stream code (R80 to R83). -/
  | acode
  /-- A Family B or C stream code (R84 to R87). -/
  | bcode
  /-- A mask run (R90 to R92). -/
  | mrun
  deriving DecidableEq, Repr

/-- The value of `SHR`: 4 to 8 (R21, R6 `SHR_MIN`, `SHR_MAX`). -/
inductive ShiftWidth where
  | w4
  | w5
  | w6
  | w7
  | w8
  deriving DecidableEq, Repr

/-- One constructor per row of spec/opcode_table.json. Stripe operands `s` are stripe indices of `DIMW` bits; the `shr`
operand of the stripe encoders and decoders is the register `SHR` (log 7). `stop` of `buInit` is R106's `end`, `AW` + 1 bits wide as
`REND` is (R23, log 19). -/
inductive Instr where
  -- Format `CMD` (R70).
  | encImage
  | decImage
  | encMask
  | decMask
  -- Format `BPOP` (R71).
  | bpInit
  | bpWriteBit (b : Bool)
  | bpWriteNbits (v : Byte) (n : BitVec 4)
  | bpWriteByte (v : Byte)
  | bpFlush
  -- Format `BUOP` (R72). `stop` is R106's `end`, as wide as `REND` (R23, log 19).
  | buInit (start : Addr) (stop : BitVec (Config.aw + 1))
  | buFill
  | buReadBit
  | buReadNbits (n : BitVec 4)
  -- Format `UOP` (R73).
  | computeShr (s : Dim)
  | select (s : Dim)
  | encMaskCol (s : Dim)
  | decMaskCol (s : Dim) (ofs : BitVec 16)
  | encA (s : Dim)
  | encA6 (s : Dim)
  | encB (s : Dim)
  | encC (s : Dim)
  | decA (s : Dim)
  | decA6 (s : Dim)
  | decB (s : Dim)
  | decC (s : Dim)
  | decAT (s : Dim)
  | decA6T (s : Dim)
  | decBT (s : Dim)
  | decCT (s : Dim)
  -- Format `TYPE` (R74): family, `T` for transparency-capable, then the shift width.
  | typeC_4
  | typeC_5
  | typeC_6
  | typeC_7
  | typeC_8
  | typeB_4
  | typeB_5
  | typeB_6
  | typeB_7
  | typeB_8
  | typeCT_4
  | typeCT_5
  | typeCT_6
  | typeCT_7
  | typeCT_8
  | typeBT_4
  | typeBT_5
  | typeBT_6
  | typeBT_7
  | typeBT_8
  | typeA6_4
  | typeA6_5
  | typeA6_6
  | typeA6_7
  | typeA6_8
  | typeA6T_4
  | typeA6T_5
  | typeA6T_6
  | typeA6T_7
  | typeA6T_8
  | typeA_4
  | typeA_5
  | typeA_6
  | typeA_7
  | typeA_8
  | typeAT_4
  | typeAT_5
  | typeAT_6
  | typeAT_7
  | typeAT_8
  -- Format `ACODE` (R80 to R83).
  | aRep
  | aLit (v : Byte)
  | aDelta (d : Int)
  | aRun (n : Byte)
  -- Format `BCODE` (R84 to R87).
  | bRep
  | bLit (v : Byte)
  | bStep
  | bRev
  -- Format `MRUN` (R90 to R92). The payload of `M.LIT` is in memory after the header and is read by the
  -- meaning (R192, log 18).
  | mRep (n : BitVec 7) (v : Byte)
  | mLit (n : BitVec 7)
  | mRsvLit0
  | mRsvRep0
  deriving DecidableEq, Repr

end Sys2Proof
end

