-- ==== Sys2Proof/WellFormed.lean ====
section
/-! DEFINITION. The operand checks of the encodings: which operand values an instruction's encoding admits. -/

namespace Sys2Proof

/-- The shift width as a number, 4 to 8 (R21). -/
def ShiftWidth.toNat : ShiftWidth → Nat
  | .w4 => 4
  | .w5 => 5
  | .w6 => 6
  | .w7 => 7
  | .w8 => 8

/-- The operand values that the encoding of an instruction admits, with the stripe's shift width `shr` as the mode
that cuts literals (R88): a literal has `shr` bits (R81, R85, R89); a delta is -4..3 and not 0 (R82); a run count is 1..255
(R83, R94); a mask count is 1..127 (R90, R91); a bit count is 1..8 (R71, R72). -/
def Instr.wf (shr : ShiftWidth) : Instr → Bool
  | .bpWriteNbits _ n => decide (1 ≤ n.toNat ∧ n.toNat ≤ 8)
  | .buReadNbits n => decide (1 ≤ n.toNat ∧ n.toNat ≤ 8)
  | .aLit v => decide (v.toNat < 2 ^ shr.toNat)
  | .aDelta d => decide (-4 ≤ d ∧ d ≤ 3 ∧ d ≠ 0)
  | .aRun n => decide (1 ≤ n.toNat)
  | .bLit v => decide (v.toNat < 2 ^ shr.toNat)
  | .mRep n _ => decide (1 ≤ n.toNat)
  | .mLit n => decide (1 ≤ n.toNat)
  | .encImage | .decImage | .encMask | .decMask => true
  | .bpInit | .bpWriteBit _ | .bpWriteByte _ | .bpFlush => true
  | .buInit _ _ | .buFill | .buReadBit => true
  | .computeShr _ | .select _ | .encMaskCol _ | .decMaskCol _ _ => true
  | .encA _ | .encA6 _ | .encB _ | .encC _ => true
  | .decA _ | .decA6 _ | .decB _ | .decC _ | .decAT _ | .decA6T _ | .decBT _ | .decCT _ => true
  | .typeC_4 | .typeC_5 | .typeC_6 | .typeC_7 | .typeC_8 => true
  | .typeB_4 | .typeB_5 | .typeB_6 | .typeB_7 | .typeB_8 => true
  | .typeCT_4 | .typeCT_5 | .typeCT_6 | .typeCT_7 | .typeCT_8 => true
  | .typeBT_4 | .typeBT_5 | .typeBT_6 | .typeBT_7 | .typeBT_8 => true
  | .typeA6_4 | .typeA6_5 | .typeA6_6 | .typeA6_7 | .typeA6_8 => true
  | .typeA6T_4 | .typeA6T_5 | .typeA6T_6 | .typeA6T_7 | .typeA6T_8 => true
  | .typeA_4 | .typeA_5 | .typeA_6 | .typeA_7 | .typeA_8 => true
  | .typeAT_4 | .typeAT_5 | .typeAT_6 | .typeAT_7 | .typeAT_8 => true
  | .aRep | .bRep | .bStep | .bRev | .mRsvLit0 | .mRsvRep0 => true

end Sys2Proof
end

