-- ==== Sys2Proof/Decode.lean ====
section
/-! DEFINITION. From bits to instructions and back: the bit order of a stream (R100), the prefix trees of the stream
codes (R88), the type byte (R74), the operation selects (R70 to R73) and the mask headers (R90 to R92); then the
encoder, from the same tables. -/

namespace Sys2Proof

/-! ## Bits of a stream (40_bit_packer.md R100) -/

/-- The low `n` bits of `v` in stream order, least significant first (R53, R100). -/
def bitsOf : Nat → Nat → List Bool
  | 0, _ => []
  | n + 1, v => decide (v % 2 = 1) :: bitsOf n (v / 2)

/-- The unsigned number whose bits, least significant first, are the list (R100). -/
def natOfBits : List Bool → Nat
  | [] => 0
  | b :: bs => b.toNat + 2 * natOfBits bs

/-- The stream carried by a byte string: bit `i` is bit `i mod 8` of byte `i div 8` (R100). -/
def streamBits (bytes : List Byte) : List Bool :=
  bytes.flatMap fun b => bitsOf 8 b.toNat

/-- The bytes that carry the first `8 * n` bits of a stream, zero bits after its end (R79, R105). -/
def packChunks : Nat → List Bool → List Byte
  | 0, _ => []
  | n + 1, bits => BitVec.ofNat 8 (natOfBits (bits.take 8)) :: packChunks n (bits.drop 8)

/-- The bytes of a stream, the last one padded with zero bits: `ceil(B / 8)` bytes (R79). -/
def packBits (bits : List Bool) : List Byte :=
  packChunks ((bits.length + 7) / 8) bits

/-! ## Reading -/

/-- Why a bit string is no instruction of its format. -/
inductive DecodeError where
  /-- The bits end before the instruction does. -/
  | truncated
  /-- A command opcode other than 0x01 to 0x04 (R70): the machine completes with `ERR_CMD` (R219). -/
  | illegalCommand (op : Byte)
  /-- A select code that no component drives (R71, R73, U14). -/
  | neverDriven (f : Format) (sel : Byte)
  /-- Operand lines beyond an operand's width are not 0 (the model's layout, log 3). -/
  | operandTooWide (f : Format)
  /-- A type byte outside the 40 of R74: the machine warns and skips the stripe (R93, R174). -/
  | unrecognisedType (b : Byte)
  deriving DecidableEq, Repr

/-- A reader of a finite bit string. -/
abbrev BitReader := StateT (List Bool) (Except DecodeError)

/-- The next `n` bits as an unsigned number, the first one least significant (R108). -/
def takeNat (n : Nat) : BitReader Nat := fun bits =>
  if bits.length < n then .error .truncated else .ok (natOfBits (bits.take n), bits.drop n)

/-- The next `n` bits, at most 8, as a byte (R108). -/
def takeBits (n : Nat) : BitReader Byte := do
  return BitVec.ofNat 8 (← takeNat n)

/-! ## Stream codes (30_encoding.md section 4) -/

/-- The delta spelled by a 3-bit field (R82, U19). -/
def deltaOfField : Config.DeltaCoding → Nat → Int
  | .excess4, f => (f : Int) - 4
  | .twosComplement, f => if f ≤ 3 then (f : Int) else (f : Int) - 8

/-- The 3-bit field that spells a delta (R82, U19). -/
def fieldOfDelta : Config.DeltaCoding → Int → Nat
  | .excess4, d => (d + 4).toNat
  | .twosComplement, d => (d % 8).toNat

/-- What to do for each of the four `ACODE` codes. -/
structure ACases (β : Type) where
  rep : β
  lit : Byte → β
  delta : Int → β
  run : Byte → β

/-- What to do for each of the four `BCODE` codes. -/
structure BCases (β : Type) where
  rep : β
  lit : Byte → β
  step : β
  rev : β

/-- What to do for each of the four `MRUN` headers. -/
structure MCases (β : Type) where
  rep : BitVec 7 → Byte → β
  lit : BitVec 7 → β
  rsvLit0 : β
  rsvRep0 : β

/-- The prefix tree of Family A's codes, one bit at a time (R88, R80 to R83), over any way of reading bits: the
decoder reads them from a bit string, the engine through the Bit Unpacker (R132). -/
def walkA {m : Type → Type} [Monad m] {α : Type} (read : Nat → m Byte) (shr : ShiftWidth)
    (cases : ACases (m α)) : m α := do
  let b0 ← read 1
  if b0 = 0 then
    cases.rep
  else do
    let b1 ← read 1
    if b1 = 0 then do
      let v ← read shr.toNat
      cases.lit v
    else do
      let f ← read 3
      if deltaOfField Config.deltaCoding f.toNat ≠ 0 then
        cases.delta (deltaOfField Config.deltaCoding f.toNat)
      else do
        let n ← read 8
        cases.run n

/-- The prefix tree of the codes of Families B and C (R88, R84 to R87). -/
def walkB {m : Type → Type} [Monad m] {α : Type} (read : Nat → m Byte) (shr : ShiftWidth)
    (cases : BCases (m α)) : m α := do
  let b0 ← read 1
  if b0 = 0 then
    cases.rep
  else do
    let b1 ← read 1
    if b1 = 0 then do
      let v ← read shr.toNat
      cases.lit v
    else do
      let b2 ← read 1
      if b2 = 0 then cases.step else cases.rev

/-- The form of a mask run from its header byte (R90 to R92): the count is examined before the value byte of a repeat
run is read (R192, R222). -/
def walkM {m : Type → Type} [Monad m] {α : Type} (next : m Byte) (cases : MCases (m α)) : m α := do
  let h ← next
  if h = 0x00 then
    cases.rsvLit0
  else if h = 0x80 then
    cases.rsvRep0
  else if h &&& 0x80 = 0 then
    cases.lit (h.setWidth 7)
  else do
    let v ← next
    cases.rep (h.setWidth 7) v

/-- Families A and A6 (R80 to R83). -/
def readACode (shr : ShiftWidth) : BitReader Instr :=
  walkA takeBits shr
    { rep := pure .aRep
      lit := fun v => pure (.aLit v)
      delta := fun d => pure (.aDelta d)
      run := fun n => pure (.aRun n) }

/-- Families B and C (R84 to R87). -/
def readBCode (shr : ShiftWidth) : BitReader Instr :=
  walkB takeBits shr
    { rep := pure .bRep
      lit := fun v => pure (.bLit v)
      step := pure .bStep
      rev := pure .bRev }

/-- Mask runs (R90 to R92). -/
def readMaskRun : BitReader Instr :=
  walkM (takeBits 8)
    { rep := fun n v => pure (.mRep n v)
      lit := fun n => pure (.mLit n)
      rsvLit0 := pure .mRsvLit0
      rsvRep0 := pure .mRsvRep0 }

/-! ## The type byte (R74) -/

/-- `family_base` of a family, transparency-capable or not (R74, R155). -/
def familyBase : Family → Bool → Nat
  | .c, false => 10
  | .b, false => 20
  | .c, true => 30
  | .b, true => 40
  | .a6, false => 60
  | .a6, true => 80
  | .a, false => 100
  | .a, true => 120

/-- The family and the transparency capability of a `family_base` (R74). -/
def familyOfBase : Nat → Option (Family × Bool)
  | 10 => some (.c, false)
  | 20 => some (.b, false)
  | 30 => some (.c, true)
  | 40 => some (.b, true)
  | 60 => some (.a6, false)
  | 80 => some (.a6, true)
  | 100 => some (.a, false)
  | 120 => some (.a, true)
  | _ => none

/-- The shift width of a number 4 to 8 (R74). -/
def widthOfNat : Nat → Option ShiftWidth
  | 4 => some .w4
  | 5 => some .w5
  | 6 => some .w6
  | 7 => some .w7
  | 8 => some .w8
  | _ => none

/-- `type = family_base + shr` (R74, R155). -/
def typeByte (f : Family) (tcap : Bool) (shr : ShiftWidth) : Byte :=
  BitVec.ofNat 8 (familyBase f tcap + shr.toNat)

/-- `shr = type mod 10`, `family_base = type - type mod 10`; recognised exactly when both are in R74's lists. -/
def decodeType (b : Byte) : Option (Family × Bool × ShiftWidth) :=
  match familyOfBase (b.toNat - b.toNat % 10), widthOfNat (b.toNat % 10) with
  | some (f, tcap), some shr => some (f, tcap, shr)
  | _, _ => none

/-- The `TYPE` row of a family, a transparency capability and a shift width. -/
def typeInstr : Family → Bool → ShiftWidth → Instr
  | .c, false, .w4 => .typeC_4
  | .c, false, .w5 => .typeC_5
  | .c, false, .w6 => .typeC_6
  | .c, false, .w7 => .typeC_7
  | .c, false, .w8 => .typeC_8
  | .b, false, .w4 => .typeB_4
  | .b, false, .w5 => .typeB_5
  | .b, false, .w6 => .typeB_6
  | .b, false, .w7 => .typeB_7
  | .b, false, .w8 => .typeB_8
  | .c, true, .w4 => .typeCT_4
  | .c, true, .w5 => .typeCT_5
  | .c, true, .w6 => .typeCT_6
  | .c, true, .w7 => .typeCT_7
  | .c, true, .w8 => .typeCT_8
  | .b, true, .w4 => .typeBT_4
  | .b, true, .w5 => .typeBT_5
  | .b, true, .w6 => .typeBT_6
  | .b, true, .w7 => .typeBT_7
  | .b, true, .w8 => .typeBT_8
  | .a6, false, .w4 => .typeA6_4
  | .a6, false, .w5 => .typeA6_5
  | .a6, false, .w6 => .typeA6_6
  | .a6, false, .w7 => .typeA6_7
  | .a6, false, .w8 => .typeA6_8
  | .a6, true, .w4 => .typeA6T_4
  | .a6, true, .w5 => .typeA6T_5
  | .a6, true, .w6 => .typeA6T_6
  | .a6, true, .w7 => .typeA6T_7
  | .a6, true, .w8 => .typeA6T_8
  | .a, false, .w4 => .typeA_4
  | .a, false, .w5 => .typeA_5
  | .a, false, .w6 => .typeA_6
  | .a, false, .w7 => .typeA_7
  | .a, false, .w8 => .typeA_8
  | .a, true, .w4 => .typeAT_4
  | .a, true, .w5 => .typeAT_5
  | .a, true, .w6 => .typeAT_6
  | .a, true, .w7 => .typeAT_7
  | .a, true, .w8 => .typeAT_8

/-- A stripe record's type byte (R74). -/
def readType : BitReader Instr := do
  let b ← takeBits 8
  match decodeType b with
  | some (f, tcap, shr) => return typeInstr f tcap shr
  | none => throw (.unrecognisedType b)

/-! ## Commands and operation selects (R70 to R73) -/

/-- The low 8 bits of a `CMD` write (R70). -/
def readCommand : BitReader Instr := do
  let op ← takeBits 8
  match op.toNat with
  | 0x01 => return .encImage
  | 0x02 => return .decImage
  | 0x03 => return .encMask
  | 0x04 => return .decMask
  | _ => throw (.illegalCommand op)

/-- The bytes of operand lines that an operand of `w` bits takes (the model's layout, log 3). -/
def lineBytes (w : Nat) : Nat := (w + 7) / 8

/-- An operand of `w` bits from its bytes of operand lines, whose other bits must be 0 (R71 to R73; log 3). -/
def takeOperand (f : Format) (w : Nat) : BitReader (BitVec w) := do
  let v ← takeNat (8 * lineBytes w)
  if v < 2 ^ w then return BitVec.ofNat w v else throw (.operandTooWide f)

/-- The bits of operand lines that carry an operand (log 3). -/
def operandBits {w : Nat} (v : BitVec w) : List Bool := bitsOf (8 * lineBytes w) v.toNat

/-- The Bit Packer's select and operand lines (R71; the layout of the lines: log 3). -/
def readPackerOp : BitReader Instr := do
  let sel ← takeBits 8
  match sel.toNat with
  | 0 => return .bpInit
  | 1 => return .bpWriteBit (decide ((← takeNat 8) % 2 = 1))
  | 2 => do
    let v ← takeBits 8
    return .bpWriteNbits v (← takeOperand .bpop 4)
  | 3 => return .bpWriteByte (← takeBits 8)
  | 4 => return .bpFlush
  | _ => throw (.neverDriven .bpop sel)

/-- The Bit Unpacker's select and operand lines (R72; log 3). -/
def readUnpackerOp : BitReader Instr := do
  let sel ← takeBits 8
  match sel.toNat with
  | 0 => do
    let start ← takeOperand .buop Config.aw
    return .buInit start (← takeOperand .buop (Config.aw + 1))
  | 1 => return .buFill
  | 2 => return .buReadBit
  | 3 => return .buReadNbits (← takeOperand .buop 4)
  | _ => throw (.neverDriven .buop sel)

/-- A stripe index in operand lines (R73; log 3). -/
def takeIndex : BitReader Dim := takeOperand .uop Config.dimw

/-- The `UOP` select and operand lines (R73; log 3). -/
def readUnitOp : BitReader Instr := do
  let sel ← takeBits 8
  match sel.toNat with
  | 0x00 => return .computeShr (← takeIndex)
  | 0x01 => return .select (← takeIndex)
  | 0x02 => return .encMaskCol (← takeIndex)
  | 0x03 => do
    let s ← takeIndex
    return .decMaskCol s (← takeOperand .uop 16)
  | 0x08 => return .encA (← takeIndex)
  | 0x09 => return .encA6 (← takeIndex)
  | 0x0A => return .encB (← takeIndex)
  | 0x0B => return .encC (← takeIndex)
  | 0x10 => return .decA (← takeIndex)
  | 0x11 => return .decA6 (← takeIndex)
  | 0x12 => return .decB (← takeIndex)
  | 0x13 => return .decC (← takeIndex)
  | 0x14 => return .decAT (← takeIndex)
  | 0x15 => return .decA6T (← takeIndex)
  | 0x16 => return .decBT (← takeIndex)
  | 0x17 => return .decCT (← takeIndex)
  | _ => throw (.neverDriven .uop sel)

/-! ## The decoder -/

/-- The instruction of format `f` at the start of a bit string, and the bits after it; `shr` is the stripe's shift
width, the mode that cuts literal codes (R88). -/
def decodeBits (f : Format) (shr : ShiftWidth) (bits : List Bool) : Except DecodeError (Instr × List Bool) :=
  match f with
  | .cmd => readCommand bits
  | .bpop => readPackerOp bits
  | .buop => readUnpackerOp bits
  | .uop => readUnitOp bits
  | .type => readType bits
  | .acode => readACode shr bits
  | .bcode => readBCode shr bits
  | .mrun => readMaskRun bits

/-- The instruction of format `f` that a byte string starts with, or the reason there is none; bytes after the instruction's
last operand are not looked at (DESIGN CHOICE, log 3: the spec gives the selects of R71 to R73 no lines). -/
def decode (f : Format) (shr : ShiftWidth) (bytes : List Byte) : Except DecodeError Instr :=
  match decodeBits f shr (streamBits bytes) with
  | .ok (i, _) => .ok i
  | .error e => .error e

/-! ## The encoder -/

/-- The format of an instruction: the "format" column of the table (R97). -/
def Instr.format : Instr → Format
  | .encImage | .decImage | .encMask | .decMask => .cmd
  | .bpInit | .bpWriteBit _ | .bpWriteNbits _ _ | .bpWriteByte _ | .bpFlush => .bpop
  | .buInit _ _ | .buFill | .buReadBit | .buReadNbits _ => .buop
  | .computeShr _ | .select _ | .encMaskCol _ | .decMaskCol _ _ => .uop
  | .encA _ | .encA6 _ | .encB _ | .encC _ => .uop
  | .decA _ | .decA6 _ | .decB _ | .decC _ | .decAT _ | .decA6T _ | .decBT _ | .decCT _ => .uop
  | .typeC_4 | .typeC_5 | .typeC_6 | .typeC_7 | .typeC_8 => .type
  | .typeB_4 | .typeB_5 | .typeB_6 | .typeB_7 | .typeB_8 => .type
  | .typeCT_4 | .typeCT_5 | .typeCT_6 | .typeCT_7 | .typeCT_8 => .type
  | .typeBT_4 | .typeBT_5 | .typeBT_6 | .typeBT_7 | .typeBT_8 => .type
  | .typeA6_4 | .typeA6_5 | .typeA6_6 | .typeA6_7 | .typeA6_8 => .type
  | .typeA6T_4 | .typeA6T_5 | .typeA6T_6 | .typeA6T_7 | .typeA6T_8 => .type
  | .typeA_4 | .typeA_5 | .typeA_6 | .typeA_7 | .typeA_8 => .type
  | .typeAT_4 | .typeAT_5 | .typeAT_6 | .typeAT_7 | .typeAT_8 => .type
  | .aRep | .aLit _ | .aDelta _ | .aRun _ => .acode
  | .bRep | .bLit _ | .bStep | .bRev => .bcode
  | .mRep _ _ | .mLit _ | .mRsvLit0 | .mRsvRep0 => .mrun

/-- The bits of an `A.DELTA` prefix and field (R82); with delta 0 this is the run-length escape (R83). -/
def deltaBits (d : Int) : List Bool :=
  [true, true] ++ bitsOf 3 (fieldOfDelta Config.deltaCoding d)

/-- The bits of an instruction in stream order, from the encoding tables of 30_encoding.md; stream codes have the
lengths of R80 to R87, every other format whole bytes. -/
def encodeBits (shr : ShiftWidth) : Instr → List Bool
  | .encImage => bitsOf 8 0x01
  | .decImage => bitsOf 8 0x02
  | .encMask => bitsOf 8 0x03
  | .decMask => bitsOf 8 0x04
  | .bpInit => bitsOf 8 0
  | .bpWriteBit b => bitsOf 8 1 ++ bitsOf 8 b.toNat
  | .bpWriteNbits v n => bitsOf 8 2 ++ operandBits v ++ operandBits n
  | .bpWriteByte v => bitsOf 8 3 ++ operandBits v
  | .bpFlush => bitsOf 8 4
  | .buInit start stop => bitsOf 8 0 ++ operandBits start ++ operandBits stop
  | .buFill => bitsOf 8 1
  | .buReadBit => bitsOf 8 2
  | .buReadNbits n => bitsOf 8 3 ++ operandBits n
  | .computeShr s => bitsOf 8 0x00 ++ operandBits s
  | .select s => bitsOf 8 0x01 ++ operandBits s
  | .encMaskCol s => bitsOf 8 0x02 ++ operandBits s
  | .decMaskCol s ofs => bitsOf 8 0x03 ++ operandBits s ++ operandBits ofs
  | .encA s => bitsOf 8 0x08 ++ operandBits s
  | .encA6 s => bitsOf 8 0x09 ++ operandBits s
  | .encB s => bitsOf 8 0x0A ++ operandBits s
  | .encC s => bitsOf 8 0x0B ++ operandBits s
  | .decA s => bitsOf 8 0x10 ++ operandBits s
  | .decA6 s => bitsOf 8 0x11 ++ operandBits s
  | .decB s => bitsOf 8 0x12 ++ operandBits s
  | .decC s => bitsOf 8 0x13 ++ operandBits s
  | .decAT s => bitsOf 8 0x14 ++ operandBits s
  | .decA6T s => bitsOf 8 0x15 ++ operandBits s
  | .decBT s => bitsOf 8 0x16 ++ operandBits s
  | .decCT s => bitsOf 8 0x17 ++ operandBits s
  | .typeC_4 => bitsOf 8 14
  | .typeC_5 => bitsOf 8 15
  | .typeC_6 => bitsOf 8 16
  | .typeC_7 => bitsOf 8 17
  | .typeC_8 => bitsOf 8 18
  | .typeB_4 => bitsOf 8 24
  | .typeB_5 => bitsOf 8 25
  | .typeB_6 => bitsOf 8 26
  | .typeB_7 => bitsOf 8 27
  | .typeB_8 => bitsOf 8 28
  | .typeCT_4 => bitsOf 8 34
  | .typeCT_5 => bitsOf 8 35
  | .typeCT_6 => bitsOf 8 36
  | .typeCT_7 => bitsOf 8 37
  | .typeCT_8 => bitsOf 8 38
  | .typeBT_4 => bitsOf 8 44
  | .typeBT_5 => bitsOf 8 45
  | .typeBT_6 => bitsOf 8 46
  | .typeBT_7 => bitsOf 8 47
  | .typeBT_8 => bitsOf 8 48
  | .typeA6_4 => bitsOf 8 64
  | .typeA6_5 => bitsOf 8 65
  | .typeA6_6 => bitsOf 8 66
  | .typeA6_7 => bitsOf 8 67
  | .typeA6_8 => bitsOf 8 68
  | .typeA6T_4 => bitsOf 8 84
  | .typeA6T_5 => bitsOf 8 85
  | .typeA6T_6 => bitsOf 8 86
  | .typeA6T_7 => bitsOf 8 87
  | .typeA6T_8 => bitsOf 8 88
  | .typeA_4 => bitsOf 8 104
  | .typeA_5 => bitsOf 8 105
  | .typeA_6 => bitsOf 8 106
  | .typeA_7 => bitsOf 8 107
  | .typeA_8 => bitsOf 8 108
  | .typeAT_4 => bitsOf 8 124
  | .typeAT_5 => bitsOf 8 125
  | .typeAT_6 => bitsOf 8 126
  | .typeAT_7 => bitsOf 8 127
  | .typeAT_8 => bitsOf 8 128
  | .aRep => [false]
  | .aLit v => [true, false] ++ bitsOf shr.toNat v.toNat
  | .aDelta d => deltaBits d
  | .aRun n => deltaBits 0 ++ bitsOf 8 n.toNat
  | .bRep => [false]
  | .bLit v => [true, false] ++ bitsOf shr.toNat v.toNat
  | .bStep => [true, true, false]
  | .bRev => [true, true, true]
  | .mRep n v => bitsOf 7 n.toNat ++ [true] ++ bitsOf 8 v.toNat
  | .mLit n => bitsOf 7 n.toNat ++ [false]
  | .mRsvLit0 => bitsOf 8 0x00
  | .mRsvRep0 => bitsOf 8 0x80

/-- The bytes of an instruction: its bits, the last byte padded with zero bits (R79). -/
def encode (shr : ShiftWidth) (i : Instr) : List Byte :=
  packBits (encodeBits shr i)

/-! ## The table's words, for the host -/

/-- The number of bytes of the longest instruction (`BU.INIT` with its operand lines). -/
def longestInstr : Nat := 1 + lineBytes Config.aw + lineBytes (Config.aw + 1)

/-- The low `nbits` bits of `w` as bytes, the first word in the lowest byte, zero bytes up to the longest
instruction. -/
def tableBytes (nbits w : Nat) : List Byte :=
  packChunks longestInstr (bitsOf nbits w)

/-- The first of the formats whose decoder accepts the bytes. The formats of the table share numbers, and a number alone
does not say where it is presented: the order (commands, type bytes, unit operations, packer, unpacker, codes, runs) is the
model's, for the host's question only (log 4); the machine itself always knows the format. -/
def firstFormat (shr : ShiftWidth) (bytes : List Byte) : List Format → Option (Format × Instr)
  | [] => none
  | f :: fs =>
    match decode f shr bytes with
    | .ok i => some (f, i)
    | .error _ => firstFormat shr bytes fs

/-- The order in which `decodeTableWord` tries the formats (log 4). -/
def tableFormats : List Format := [.cmd, .type, .uop, .bpop, .buop, .bcode, .acode, .mrun]

/-- The format and instruction of a table word under a shift width (log 4). -/
def tableWord (shr : ShiftWidth) (nbits w : Nat) : Option (Format × Instr) :=
  firstFormat shr (tableBytes nbits w) tableFormats

/-- The instruction the decoder reads from a table word, with the shift width of reset (log 4, log 6). -/
def decodeTableWord (nbits w : Nat) : Option Instr :=
  (tableWord .w4 nbits w).map Prod.snd

end Sys2Proof
end

