-- ==== Sys2Proof/Machine/State.lean ====
section
/-! DEFINITION. The state of the codec engine: every register of 10_state.md (R20 to R49) as plain data, the faults
and refusals a step can stop with, and the state after reset (R48, R240, R241). -/

namespace Sys2Proof.Machine

/-- Why the machine stops where the spec says the thing accessed does not exist. -/
inductive Fault where
  /-- Raised by every single-byte access (readByte, writeByte) at an address of 2^`AW` or more: no such location (R50). It is
  safe: the model stops where the spec gives no behaviour (U9). Commands never raise it, they are refused at launch. -/
  | addressOutOfRange
  deriving DecidableEq, Repr

/-- Why the model gives no next state. -/
inductive Refusal where
  /-- Raised by `exec` alone, for an instruction that has no meaning yet. It is safe. -/
  | notModelled (mnemonic : String)
  /-- Raised by every single-byte access (readByte, writeByte) while no command runs: the engine reaches memory only while
  `STATUS.BUSY` is 1 (R50, log 11). Commands never raise it. It is safe. -/
  | noCommandRunning
  /-- Raised at the launch of a command whose addresses do not all lie below 2^`AW` (R62, U9). It is safe. -/
  | addressRange
  /-- Raised at the launch of a command whose pixel or plane region overlaps its blob region (R61, R244, U8). It is safe. -/
  | regionsOverlap
  /-- Raised by `BP.WRITE_NBITS` and `BU.READ_NBITS` with a count outside 1..8 (R103, R108, U2). It is safe. -/
  | bitCount
  /-- Raised by a Bit Packer write while 8 or more bits are buffered, which R103 requires not to be. It is safe. -/
  | packerFull
  /-- Raised by the fetch of an operation select that no component drives, or whose operand lines are not as the model lays
  them out (R71, R73, U14, log 3). It is safe. -/
  | neverDriven
  /-- Raised by a one-pixel stream code when the stripe has no pixel left: no rule lets a decoder read one
  (R79, R132, R142, log 12). It is safe. -/
  | noPixelLeft
  /-- Raised by a register access that is not an aligned 32-bit access (R54, U12). It is safe. -/
  | registerAccess
  deriving DecidableEq, Repr

/-- The error codes of `STATUS.ERR` (R211); codes 8 to 15 are never produced. -/
inductive Err where
  | ok
  | precond
  | acct
  | trunc
  | format
  | noSpace
  | range
  | cmd
  deriving DecidableEq, Repr

/-- `INC`: -1 or +1 (R21). -/
inductive Dir where
  | down
  | up
  deriving DecidableEq, Repr

/-- The fields of `STATUS` (R32, R28). -/
structure Status where
  busy : Bool
  done : Bool
  err : Err
  hasTransp : Bool
  warn : Bool
  deriving DecidableEq, Repr

/-- The host-visible registers (R30 to R45). `CMD` holds nothing (R31). -/
structure Regs where
  status : Status
  pixBase : Addr
  stride : Addr
  width : Dim
  height : Dim
  transpColor : Byte
  transpEn : Bool
  palmod : Byte
  blobBase : Addr
  blobSize : Addr
  outLen : Addr
  modeOr : Bool
  errInfo : Dim
  warnCnt : Dim
  loglevel : Byte
  deriving DecidableEq, Repr

/-- The stripe datapath (R21) and the selects that drive it: `FAM` and `TR` of R73, the latter being R177's
`transparent`. -/
structure Datapath where
  color : Byte
  inc : Dir
  shr : ShiftWidth
  k : Nat
  run : Nat
  fam : Family
  tr : Bool
  deriving DecidableEq, Repr

/-- The Bit Packer (R22). -/
structure Packer where
  wacc : BitVec 16
  wcnt : Nat
  wout : List Byte
  deriving DecidableEq, Repr

/-- The Bit Unpacker (R23), the `start` its cursor counts from (R27) and the result of its last read (R108). -/
structure Unpacker where
  racc : BitVec 16
  rcnt : Nat
  rptr : Nat
  rend : Nat
  start : Nat
  result : Byte
  deriving DecidableEq, Repr

/-- The candidate streams `CAND[f]` (R25). -/
structure Cands where
  a : List Byte
  a6 : List Byte
  b : List Byte
  c : List Byte
  deriving DecidableEq, Repr

/-- The selector's result for a stripe: `BESTF[s]`, `BESTSHR[s]` and `STREAM[s]` (R25, R156). -/
structure Best where
  stripe : Nat
  fam : Family
  shr : ShiftWidth
  stream : List Byte
  deriving DecidableEq, Repr

/-- The selector and image codec (R25) with R170's `ofs` and running `HAS_TRANSP`. -/
structure Selector where
  stripe : Nat
  cand : Cands
  best : List Best
  total : Nat
  wpos : Nat
  ofs : Nat
  hasTransp : Bool
  deriving DecidableEq, Repr

/-- The mask codec (R26) with the record being written (R190) and the offsets and records of a plane (R194). -/
structure MaskRegs where
  litbuf : List Byte
  y : Nat
  mptr : Nat
  out : List Byte
  zofs : List Nat
  recs : List (List Byte)
  deriving DecidableEq, Repr

/-- The memory of 2^`AW` bytes (R49): the bytes that differ from `Config.unlistedByte`, by rising address. -/
abbrev Memory := List Host.Cell

/-- A request presented to the engine (log 2): the host's register accesses (R30, R226), an operation select with its
operand lines (R71 to R73), or the wish that a decoder take the next instruction of a record. -/
inductive Request where
  /-- The host writes the register at an offset. -/
  | regWrite (off : Word) (v : Word)
  /-- The host reads the register at an offset. -/
  | regRead (off : Word)
  /-- The Bit Packer's select and operand lines. -/
  | bpop (lines : List Byte)
  /-- The Bit Unpacker's select and operand lines. -/
  | buop (lines : List Byte)
  /-- The `UOP` select and operand lines. -/
  | uop (lines : List Byte)
  /-- Take the type byte of stripe `S` (R170). -/
  | nextType
  /-- Take the Family A code at the stream cursor (R132). -/
  | nextACode
  /-- Take the Family B or C code at the stream cursor (R142). -/
  | nextBCode
  /-- Take the mask run at `MPTR` (R192). -/
  | nextRun
  deriving DecidableEq, Repr

/-- The whole state of one engine, its memory and its pending inputs. -/
structure State where
  regs : Regs
  dp : Datapath
  bp : Packer
  bu : Unpacker
  sel : Selector
  mask : MaskRegs
  mem : Memory
  bus : List Request
  rdata : Word
  deriving DecidableEq, Repr

/-! ## One update for each part -/

/-- The host-visible registers replaced. -/
def State.setRegs (s : State) (x : Regs) : State := { s with regs := x }

/-- The stripe datapath replaced. -/
def State.setDp (s : State) (x : Datapath) : State := { s with dp := x }

/-- The Bit Packer replaced. -/
def State.setBp (s : State) (x : Packer) : State := { s with bp := x }

/-- The Bit Unpacker replaced. -/
def State.setBu (s : State) (x : Unpacker) : State := { s with bu := x }

/-- The selector and image codec replaced. -/
def State.setSel (s : State) (x : Selector) : State := { s with sel := x }

/-- The mask codec replaced. -/
def State.setMask (s : State) (x : MaskRegs) : State := { s with mask := x }

/-- The memory replaced. -/
def State.setMem (s : State) (x : Memory) : State := { s with mem := x }

/-- The pending requests replaced. -/
def State.setBus (s : State) (x : List Request) : State := { s with bus := x }

/-- The host's read data replaced. -/
def State.setRdata (s : State) (x : Word) : State := { s with rdata := x }

/-! ## Reset -/

/-- Every host-visible register is 0 (R48, R240). -/
def Regs.reset : Regs where
  status := { busy := false, done := false, err := .ok, hasTransp := false, warn := false }
  pixBase := 0
  stride := 0
  width := 0
  height := 0
  transpColor := 0
  transpEn := false
  palmod := 0
  blobBase := 0
  blobSize := 0
  outLen := 0
  modeOr := false
  errInfo := 0
  warnCnt := 0
  loglevel := 0

/-- The machine right after reset. The host-visible registers are as R48 and R240 say; memory has nothing listed (R242;
log 5); the working registers have no value of the spec's (R241, "A model may initialise them to anything") and hold
the DESIGN CHOICE of log 6: zero, empty, and where zero is no value of the register (`SHR`, `INC`) the value an operation
starts from (R120, R128). -/
def State.reset : State where
  regs := Regs.reset
  dp := { color := 0, inc := .down, shr := .w4, k := 0, run := 0, fam := .a, tr := false }
  bp := { wacc := 0, wcnt := 0, wout := [] }
  bu := { racc := 0, rcnt := 0, rptr := 0, rend := 0, start := 0, result := 0 }
  sel := { stripe := 0, cand := { a := [], a6 := [], b := [], c := [] }, best := [], total := 0, wpos := 0,
           ofs := 0, hasTransp := false }
  mask := { litbuf := [], y := 0, mptr := 0, out := [], zofs := [], recs := [] }
  mem := []
  bus := []
  rdata := 0

end Sys2Proof.Machine
end

