-- ==== Sys2Proof/Machine/Flags.lean ====
section
/-! DEFINITION. The flags of the engine: the fields of `STATUS` (R28, R32), their codes and how the start, the completion
and an error of a command set them (R31, R212, R218). -/

namespace Sys2Proof.Machine

/-- The 4-bit code of an error (R211). -/
def Err.code : Err → BitVec 4
  | .ok => 0
  | .precond => 1
  | .acct => 2
  | .trunc => 3
  | .format => 4
  | .noSpace => 5
  | .range => 6
  | .cmd => 7

/-- `STATUS` as it is read (R32): `BUSY` bit 0, `DONE` bit 1, `ERR` bits 7:4, `HAS_TRANSP` bit 8, `WARN` bit 9, the other
bits 0. -/
def Status.word (st : Status) : Word :=
  0#22 ++ BitVec.ofBool st.warn ++ BitVec.ofBool st.hasTransp ++ st.err.code ++ 0#2 ++ BitVec.ofBool st.done ++
    BitVec.ofBool st.busy

/-- `STATUS` from the `CMD` write until the command completes: cleared, then `BUSY` set (R31). -/
def Status.started : Status :=
  { busy := true, done := false, err := .ok, hasTransp := false, warn := false }

/-- `STATUS` when a command completes, with or without an error: `BUSY` 0, `DONE` 1, the error code, the accumulated
`HAS_TRANSP`, and `WARN` = (`WARN_CNT` ≠ 0) (R32, R212, R216, R218). -/
def Status.completed (e : Err) (hasTransp : Bool) (warnCnt : Dim) : Status :=
  { busy := false, done := true, err := e, hasTransp := hasTransp, warn := decide (warnCnt ≠ 0) }

/-- Whether `ERR_INFO` holds the stripe index for this error (R43, R211). -/
def Err.namesStripe : Err → Bool
  | .trunc | .format | .range => true
  | .ok | .precond | .acct | .noSpace | .cmd => false

end Sys2Proof.Machine
end

