-- ==== Sys2Proof/Machine/Ops.lean ====
section
/-! DEFINITION. The shared operations of the engine: single-byte memory, the error-raising action type of the
pseudocode, the start, completion and error completion of a command (the engine's exception entry, R212), and the
launch premises of R61 and R62. -/

namespace Sys2Proof.Machine

/-! ## Memory (20_memory.md) -/

/-- The byte at an address (R50). -/
def Memory.read : Memory → Nat → Byte
  | [], _ => Config.unlistedByte
  | (a', b) :: rest, a => if a' = a then b else Memory.read rest a

/-- The memory with the byte at an address replaced, in canonical form. -/
def Memory.write : Memory → Nat → Byte → Memory
  | [], a, v => if v = Config.unlistedByte then [] else [(a, v)]
  | (a', b) :: rest, a, v =>
    if a < a' then
      if v = Config.unlistedByte then (a', b) :: rest else (a, v) :: (a', b) :: rest
    else if a = a' then
      if v = Config.unlistedByte then rest else (a, v) :: rest
    else (a', b) :: Memory.write rest a v

/-- The entries' addresses are strictly rising, all above a bound. -/
def Memory.risingFrom : Nat → Memory → Bool
  | _, [] => true
  | lo, (a, _) :: rest => decide (lo ≤ a) && Memory.risingFrom (a + 1) rest

/-- The canonical form: addresses strictly rising and inside the space, no entry equal to what an unlisted address
reads as. -/
def Memory.wf (m : Memory) : Bool :=
  Memory.risingFrom 0 m && m.all fun c => decide (c.1 < Config.addrSpace) && decide (c.2 ≠ Config.unlistedByte)

/-! ## Actions: the pseudocode's steps over a state -/

/-- Why a pseudocode stops before its end. -/
inductive Stop where
  /-- `raise E` (00_scope.md section 6): taken by `raiseError`. -/
  | raise (e : Err)
  | fault (f : Fault)
  | refuse (r : Refusal)
  deriving DecidableEq, Repr

/-- A piece of pseudocode: it reads and writes the state and may stop; what was written before a stop stays written
(R212, R178). -/
abbrev Act := EStateM Stop State

/-- Whether the engine reaches the byte at an address (R50): a command runs (`STATUS.BUSY` = 1; log 11) and the address lies in
the space. -/
def State.reaches (s : State) (a : Nat) : Bool := s.regs.status.busy && decide (a < Config.addrSpace)

/-- Why a byte that is not reached is not. -/
def State.unreached (s : State) : Stop :=
  if s.regs.status.busy then .fault .addressOutOfRange else .refuse .noCommandRunning

/-- The memory port at an address (R50). -/
def reachMemory (a : Nat) : Act Unit := do
  let s ← get
  if s.reaches a then
    return ()
  else
    throw s.unreached

/-- `MemRead(addr, 1)` (R50). -/
def readByte (a : Nat) : Act Byte := do
  reachMemory a
  return (← get).mem.read a

/-- `MemWrite(addr, 1, v)` (R50). -/
def writeByte (a : Nat) (v : Byte) : Act Unit := do
  reachMemory a
  modify fun s => s.setMem (s.mem.write a v)

/-- `MemRead(addr, n)`: `n` single-byte reads at ascending addresses, little-endian (R50, R52). -/
def readLE : Nat → Nat → Act Nat
  | 0, _ => return 0
  | n + 1, a => do
    let b ← readByte a
    let rest ← readLE n (a + 1)
    return b.toNat + 256 * rest

/-- Bytes written at ascending addresses. -/
def writeBytes : Nat → List Byte → Act Unit
  | _, [] => return ()
  | a, b :: bs => do
    writeByte a b
    writeBytes (a + 1) bs

/-- The `n` little-endian bytes of a number (R52). -/
def bytesLE : Nat → Nat → List Byte
  | 0, _ => []
  | n + 1, v => BitVec.ofNat 8 v :: bytesLE n (v / 256)

/-- A step repeated while a condition holds, at most as often as the loop of the pseudocode can go round (R253: every
loop is bounded). -/
def whileUpTo (cond : State → Bool) (body : Act Unit) : Nat → Act Unit
  | 0 => return ()
  | n + 1 => do
    if cond (← get) then do
      body
      whileUpTo cond body n
    else
      return ()

/-- `for s in i .. i + n - 1`: the loops over stripes, in ascending order (R156, R170, R194, R196). -/
def eachFrom (body : Nat → Act Unit) : Nat → Nat → Act Unit
  | 0, _ => return ()
  | n + 1, i => do
    body i
    eachFrom body n (i + 1)

/-! ## Starting, completing and failing -/

/-- What a `CMD` write does before the command's first step (R31): `STATUS`, `ERR_INFO` and `WARN_CNT` cleared, `BUSY`
set. It is also what clears an error: there is no other return from one (R223). The running `HAS_TRANSP` starts at 0
(R170, R212). -/
def startCommand (s : State) : State :=
  { s with
    regs := { s.regs with status := Status.started, errInfo := 0, warnCnt := 0 }
    sel := { s.sel with hasTransp := false } }

/-- `raise E`, the engine's exception entry (R212): `BUSY` 0, `DONE` 1, `ERR` the code; `ERR_INFO` the stripe for
`ERR_TRUNC`, `ERR_FORMAT` and `ERR_RANGE`, else 0 (R211); `OUT_LEN` 0; `HAS_TRANSP`, `WARN` and `WARN_CNT` as accumulated;
argument registers and memory as they are. Nothing else is saved and control goes nowhere (R212). -/
def raiseError (e : Err) (s : State) : State :=
  { s with
    regs := { s.regs with
      status := Status.completed e s.sel.hasTransp s.regs.warnCnt
      errInfo := if e.namesStripe then BitVec.ofNat Config.dimw s.sel.stripe else 0
      outLen := 0 } }

/-- Normal completion (R218): `BUSY` 0, `DONE` 1, `ERR` = `OK`, `ERR_INFO` 0, `OUT_LEN` the blob's length after an encode
and 0 after a decode (R41). -/
def completeOk (len : Nat) (s : State) : State :=
  { s with
    regs := { s.regs with
      status := Status.completed .ok s.sel.hasTransp s.regs.warnCnt
      errInfo := 0
      outLen := BitVec.ofNat Config.aw len } }

/-- `warn()` (R216): one more skipped stripe. -/
def warn (s : State) : State :=
  { s with regs := { s.regs with warnCnt := s.regs.warnCnt + 1 } }

/-- What a stop is to the machine: an error completes the command, a fault or a refusal ends the run. -/
def stopped (st : Stop) (s : State) : Host.Outcome State Fault Refusal :=
  match st with
  | .raise e => .next (raiseError e s)
  | .fault f => .fault f
  | .refuse r => .refused r

/-- An operation that is not a command: its writes, or its stop (log 11). -/
def runUnit (body : Act Unit) (s : State) : Host.Outcome State Fault Refusal :=
  match body.run s with
  | .ok _ s' => .next s'
  | .error st s' => stopped st s'

/-- A command (R31): ignored while another runs; else it starts, runs its pseudocode, whose value is the byte length
for `OUT_LEN`, and completes. It is one step (R57, log 1). -/
def runCommand (body : Act Nat) (s : State) : Host.Outcome State Fault Refusal :=
  if s.regs.status.busy then .next s
  else
    match body.run (startCommand s) with
    | .ok len s' => .next (completeOk len s')
    | .error st s' => stopped st s'

/-- A `CMD` write whose opcode is none of the four (R219): ignored while a command runs, else it completes at once with
`ERR_CMD` and no memory access. -/
def illegalCommand (s : State) : State :=
  if s.regs.status.busy then s else raiseError .cmd (startCommand s)

/-! ## Preconditions of a command -/

/-- The number of stripes, `WIDTH / 8` (R35). -/
def State.stripes (s : State) : Nat := s.regs.width.toNat / 8

/-- `ERR_PRECOND` (R213): the first test of every command. -/
def checkPrecond : Act Unit := do
  let s ← get
  if s.regs.width.toNat % 8 ≠ 0 ∨ s.regs.height = 0 then
    throw (.raise .precond)

/-- One past the last byte of the pixel or plane region, for rows of `rowLen` bytes (R62, R244): the region runs from
`PIX_BASE` through the last row, the bytes between rows among it. -/
def State.regionEnd (s : State) (rowLen : Nat) : Nat :=
  s.regs.pixBase.toNat + (s.regs.height.toNat - 1) * s.regs.stride.toNat + rowLen

/-- Every address the command can form is below 2^`AW` (R62), for rows of `rowLen` bytes at `PIX_BASE` and a blob region of
`BLOB_SIZE` bytes. With no stripe no address is formed. -/
def State.addressesFit (s : State) (rowLen : Nat) : Bool :=
  decide (rowLen = 0) ||
    (decide (s.regionEnd rowLen ≤ Config.addrSpace) &&
      decide (s.regs.blobBase.toNat + s.regs.blobSize.toNat ≤ Config.addrSpace))

/-- The pixel or plane region and the blob region share no byte (R61, R244). With no stripe, or a blob region of no byte,
there is nothing to share. -/
def State.regionsDisjoint (s : State) (rowLen : Nat) : Bool :=
  decide (rowLen = 0) || decide (s.regs.blobSize = 0) ||
    decide (s.regionEnd rowLen ≤ s.regs.blobBase.toNat) ||
    decide (s.regs.blobBase.toNat + s.regs.blobSize.toNat ≤ s.regs.pixBase.toNat)

/-- The launch premises (R61, R62): the spec says "a model should refuse such a launch" (U8, U9, log 10). -/
def checkLaunch (rowLen : Nat) : Act Unit := do
  let s ← get
  if s.addressesFit rowLen then
    if s.regionsDisjoint rowLen then
      return ()
    else
      throw (.refuse .regionsOverlap)
  else
    throw (.refuse .addressRange)

end Sys2Proof.Machine
end

