-- ==== Sys2Proof/Machine/BitPacker.lean ====
section
/-! DEFINITION. The Bit Packer (40_bit_packer.md R101 to R105): its operations and the meanings of the five `BPOP`
instructions. -/

namespace Sys2Proof.Machine

/-- The low `n` bits set, 16 bits wide: `(1 << n) - 1` (R103, R108). -/
def lowMask (n : Nat) : BitVec 16 := BitVec.ofNat 16 (2 ^ n - 1)

/-- `BP.INIT` (R101). -/
def Packer.init : Packer := { wacc := 0, wcnt := 0, wout := [] }

/-- The emission of a byte as soon as 8 bits are buffered (R103, D11). -/
def Packer.emit (p : Packer) : Packer :=
  if 8 ≤ p.wcnt then
    { wacc := p.wacc >>> 8, wcnt := p.wcnt - 8, wout := p.wout ++ [p.wacc.setWidth 8] }
  else p

/-- `BP.WRITE_NBITS v, n` (R103). -/
def Packer.writeNbits (p : Packer) (v : Byte) (n : Nat) : Packer :=
  Packer.emit
    { p with
      wacc := p.wacc ||| ((v.setWidth 16 &&& lowMask n) <<< p.wcnt)
      wcnt := p.wcnt + n }

/-- `BP.WRITE_BIT b` (R102). -/
def Packer.writeBit (p : Packer) (b : Bool) : Packer :=
  p.writeNbits (if b then 1 else 0) 1

/-- `BP.WRITE_BYTE v` (R104). -/
def Packer.writeByte (p : Packer) (v : Byte) : Packer :=
  p.writeNbits v 8

/-- `BP.FLUSH` (R105). -/
def Packer.flush (p : Packer) : Packer :=
  { wacc := 0
    wcnt := 0
    wout := if 0 < p.wcnt then p.wout ++ [p.wacc.setWidth 8] else p.wout }

/-- R103's requirement on the packer and the count, then the write. -/
def packerWrite (v : Byte) (n : Nat) : Act Unit := do
  if 1 ≤ n ∧ n ≤ 8 then
    if (← get).bp.wcnt ≤ 7 then
      modify fun s => s.setBp (s.bp.writeNbits v n)
    else
      throw (.refuse .packerFull)
  else
    throw (.refuse .bitCount)

/-- `BP.INIT` (R101). -/
def execBpInit (s : State) : Host.Outcome State Fault Refusal :=
  .next (s.setBp Packer.init)

/-- `BP.WRITE_BIT b` (R102): `BP.WRITE_NBITS(b, 1)`. -/
def execBpWriteBit (b : Bool) (s : State) : Host.Outcome State Fault Refusal :=
  runUnit (packerWrite (if b then 1 else 0) 1) s

/-- `BP.WRITE_NBITS v, n` (R103). -/
def execBpWriteNbits (v : Byte) (n : BitVec 4) (s : State) : Host.Outcome State Fault Refusal :=
  runUnit (packerWrite v n.toNat) s

/-- `BP.WRITE_BYTE v` (R104): `BP.WRITE_NBITS(v, 8)`. -/
def execBpWriteByte (v : Byte) (s : State) : Host.Outcome State Fault Refusal :=
  runUnit (packerWrite v 8) s

/-- `BP.FLUSH` (R105). -/
def execBpFlush (s : State) : Host.Outcome State Fault Refusal :=
  .next (s.setBp s.bp.flush)

end Sys2Proof.Machine
end

