-- ==== Sys2Proof/Machine/BitUnpacker.lean ====
section
/-! DEFINITION. The Bit Unpacker (40_bit_packer.md R106 to R109), its cursor (R27) and the meanings of the four `BUOP`
instructions. -/

namespace Sys2Proof.Machine

/-- The stream cursor `CUR` (R27), in bits from the `start` of the last `BU.INIT`. -/
def Unpacker.cursor (u : Unpacker) : Nat := 8 * (u.rptr - u.start) - u.rcnt

/-- `BU.INIT start, end` (R106). -/
def unpackerInit (start stop : Nat) : Act Unit :=
  modify fun s => s.setBu { s.bu with racc := 0, rcnt := 0, rptr := start, rend := stop, start := start }

/-- The unpacker with one more source byte buffered (R107). -/
def Unpacker.pull (u : Unpacker) (b : Byte) : Unpacker :=
  { u with racc := u.racc ||| (b.setWidth 16 <<< u.rcnt), rptr := u.rptr + 1, rcnt := u.rcnt + 8 }

/-- `BU.FILL` (R107). -/
def unpackerFill : Act Unit := do
  let u := (← get).bu
  if u.rcnt < 8 ∧ u.rptr < u.rend then do
    let b ← readByte u.rptr
    modify fun s => s.setBu (s.bu.pull b)

/-- The unpacker after `n` of its buffered bits were taken as the result (R108). -/
def Unpacker.take (u : Unpacker) (n : Nat) : Unpacker :=
  { u with
    result := (u.racc &&& lowMask n).setWidth 8
    racc := u.racc >>> n
    rcnt := u.rcnt - n }

/-- `BU.READ_NBITS n` (R108). -/
def readNbits (n : Nat) : Act Byte := do
  if 1 ≤ n ∧ n ≤ 8 then do
    unpackerFill
    if (← get).bu.rcnt < n then
      throw (.raise .trunc)
    else do
      modify fun s => s.setBu (s.bu.take n)
      return (← get).bu.result
  else
    throw (.refuse .bitCount)

/-- `BU.INIT start, end` (R106). -/
def execBuInit (start : Addr) (stop : BitVec (Config.aw + 1)) (s : State) : Host.Outcome State Fault Refusal :=
  runUnit (unpackerInit start.toNat stop.toNat) s

/-- `BU.FILL` (R107). -/
def execBuFill (s : State) : Host.Outcome State Fault Refusal :=
  runUnit unpackerFill s

/-- `BU.READ_BIT` (R109): `BU.READ_NBITS(1)`; the result is on the result lines. -/
def execBuReadBit (s : State) : Host.Outcome State Fault Refusal :=
  runUnit (do let _ ← readNbits 1) s

/-- `BU.READ_NBITS n` (R108); the result is on the result lines. -/
def execBuReadNbits (n : BitVec 4) (s : State) : Host.Outcome State Fault Refusal :=
  runUnit (do let _ ← readNbits n.toNat) s

end Sys2Proof.Machine
end

