-- ==== Sys2Proof/Machine/Operands.lean ====
section
/-! DEFINITION. The operand forms of the codecs: where pixel `k` of a stripe lies (R51, R125, R128), reading a stripe or a
mask column, the pixel write `PUT` (R177), the mask write `WR` and the record read `next()` (R192). -/

namespace Sys2Proof

/-- The next larger shift width; 8 is the last (R120). -/
def ShiftWidth.next : ShiftWidth → ShiftWidth
  | .w4 => .w5
  | .w5 => .w6
  | .w6 => .w7
  | .w7 => .w8
  | .w8 => .w8

/-- `LMASK` (R21): `(1 << SHR) - 1`. -/
def ShiftWidth.mask (w : ShiftWidth) : Byte := BitVec.ofNat 8 (2 ^ w.toNat - 1)

end Sys2Proof

namespace Sys2Proof.Machine

/-! ## Views of registers -/

/-- `NPIX` (R21): the number of pixels of a stripe. -/
def State.npix (s : State) : Nat := 8 * s.regs.height.toNat

/-- `INC` as an addend modulo 256 (R21, R148). -/
def Dir.toByte : Dir → Byte
  | .down => 255
  | .up => 1

/-- `-INC` (R149). -/
def Dir.flip : Dir → Dir
  | .down => .up
  | .up => .down

/-- `CAND[f]` (R25). -/
def Cands.get (c : Cands) : Family → List Byte
  | .a => c.a
  | .a6 => c.a6
  | .b => c.b
  | .c => c.c

/-- `CAND[f]` replaced. -/
def Cands.set (c : Cands) (f : Family) (bytes : List Byte) : Cands :=
  match f with
  | .a => { c with a := bytes }
  | .a6 => { c with a6 := bytes }
  | .b => { c with b := bytes }
  | .c => { c with c := bytes }

/-- `CLEN[f]` (R25, R152). -/
def Cands.clen (c : Cands) (f : Family) : Nat := (c.get f).length

/-- `BESTLEN[s]` (R25, R156): 1 + the winning stream's length. -/
def Best.len (b : Best) : Nat := 1 + b.stream.length

/-- `LITCNT` (R26). -/
def MaskRegs.litcnt (m : MaskRegs) : Nat := m.litbuf.length

/-! ## Pixels -/

/-- Row and column of pixel `k` in a family's visiting order: raster for A, A6 and B (R125, R128), column-major for C
(R128). -/
def pixelPos (f : Family) (height k : Nat) : Nat × Nat :=
  match f with
  | .a | .a6 | .b => (k / 8, k % 8)
  | .c => (k % height, k / height)

/-- The address of row `row`, column `col` of stripe `S` (R51 (a)). -/
def State.stripeAddr (s : State) (row col : Nat) : Nat :=
  s.regs.pixBase.toNat + row * s.regs.stride.toNat + 8 * s.sel.stripe + col

/-- The address of pixel `k` of stripe `S` in a family's order. -/
def State.pixelAddr (s : State) (f : Family) (k : Nat) : Nat :=
  s.stripeAddr (pixelPos f s.regs.height.toNat k).1 (pixelPos f s.regs.height.toNat k).2

/-- Pixels `k`, .., `k + n - 1` of stripe `S` in a family's order, read in that order. -/
def readPixels (f : Family) : Nat → Nat → Act (List Byte)
  | 0, _ => return []
  | n + 1, k => do
    let v ← readByte ((← get).pixelAddr f k)
    let vs ← readPixels f n (k + 1)
    return v :: vs

/-- `PUT(k, c)` (R177): nothing where the variant is transparent and `c` is the transparent colour; else the byte
`u8(c + PALMOD)` at the pixel's place in the driven family's order. The transparent form compares with `TRANSP.COLOR` whatever
`TRANSP.EN` is: DESIGN CHOICE for an operation or code presented on its own with `TRANSP.EN` 0 (log 30). -/
def put (k : Nat) (c : Byte) : Act Unit := do
  let s ← get
  if s.dp.tr && decide (c = s.regs.transpColor) then
    return ()
  else
    writeByte (s.pixelAddr s.dp.fam k) (c + s.regs.palmod)

/-- The stripe's datapath registers replaced. -/
def setDp (f : Datapath → Datapath) : Act Unit :=
  modify fun s => s.setDp (f s.dp)

/-- `PUT(K, COLOR); K <- K + 1`, the end of every one-pixel code (R136 to R138, R146 to R149). -/
def putNext : Act Unit := do
  let s ← get
  put s.dp.k s.dp.color
  setDp fun d => { d with k := d.k + 1 }

/-- A one-pixel code needs a next pixel: `K` < `NPIX` (R132, R142, log 12). -/
def needPixel : Act Unit := do
  let s ← get
  if s.dp.k < s.npix then
    return ()
  else
    throw (.refuse .noPixelLeft)

/-- The start of a stripe operation on stripe `st`: `S`, the selects `FAM` and `TR`, and the initial values of R21 that do
not depend on a pixel: `INC` -1, `RUN` 0 (R21, R73). A stripe index of `WIDTH` / 8 or more is run as written: DESIGN CHOICE
(log 26). -/
def beginStripe (st : Nat) (f : Family) (tr : Bool) : Act Unit :=
  modify fun s =>
    (s.setSel { s.sel with stripe := st }).setDp { s.dp with fam := f, tr := tr, inc := .down, run := 0 }

/-! ## Mask columns -/

/-- The address of row `y` of the column of stripe `S` (R51 (b), R197). -/
def State.columnAddr (s : State) (y : Nat) : Nat :=
  s.regs.pixBase.toNat + y * s.regs.stride.toNat + s.sel.stripe

/-- The bytes `col[y]`, .., `col[y + n - 1]` of the column of stripe `S` (R197). -/
def readColumn : Nat → Nat → Act (List Byte)
  | 0, _ => return []
  | n + 1, y => do
    let v ← readByte ((← get).columnAddr y)
    let vs ← readColumn n (y + 1)
    return v :: vs

/-- `WR(y, v)` (R192): overwrite, or read and OR when `MODE.OR` is 1. An `S` of `WIDTH` / 8 or more (log 26) has the place that
the formula gives. -/
def writeRow (y : Nat) (v : Byte) : Act Unit := do
  let s ← get
  if s.regs.modeOr then do
    let old ← readByte (s.columnAddr y)
    writeByte (s.columnAddr y) (old ||| v)
  else
    writeByte (s.columnAddr y) v

/-- One past the last blob byte, `BLOB_BASE + BLOB_SIZE` (R40). -/
def State.blobEnd (s : State) : Nat := s.regs.blobBase.toNat + s.regs.blobSize.toNat

/-- The mask codec's registers replaced. -/
def setMask (f : MaskRegs → MaskRegs) : Act Unit :=
  modify fun s => s.setMask (f s.mask)

/-- `next()` (R192): the byte at `MPTR`, which must lie below the end of the blob. -/
def nextByte : Act Byte := do
  let s ← get
  if s.blobEnd ≤ s.mask.mptr then
    throw (.raise .trunc)
  else do
    let b ← readByte s.mask.mptr
    setMask fun m => { m with mptr := m.mptr + 1 }
    return b

end Sys2Proof.Machine
end

