-- ==== Sys2Proof/Machine/ShiftWidthAnalyzer.lean ====
section
/-! DEFINITION. The Shift-Width Analyzer (41_shift_width.md): `COMPUTE_SHR`. -/

namespace Sys2Proof.Machine

/-- The width grown until the pixel fits, the same pixel tested again after each growth (R120 corner case (a)); at 8
everything fits. The count bounds the growth. -/
def growWidth : Nat → ShiftWidth → Byte → ShiftWidth
  | 0, w, _ => w
  | n + 1, w, v => if v = v &&& w.mask then w else growWidth n w.next v

/-- The scan of R120 over pixels `k`, .., `k + n - 1` in raster order; it stops at width 8. -/
def scanWidth : Nat → Nat → Act Unit
  | 0, _ => return ()
  | n + 1, k => do
    let v ← readByte ((← get).pixelAddr .a k)
    setDp fun d => { d with shr := growWidth 4 d.shr v }
    if (← get).dp.shr = .w8 then return () else scanWidth n (k + 1)

/-- `COMPUTE_SHR s` (R120): every pixel but the first is examined; the result is in `SHR` (and `LMASK`, its view). A stripe
index of `WIDTH` / 8 or more is run as written: DESIGN CHOICE (log 26). -/
def computeShr (st : Nat) : Act Unit := do
  modify fun s => s.setSel { s.sel with stripe := st }
  setDp fun d => { d with shr := .w4 }
  scanWidth ((← get).npix - 1) 1

/-- `COMPUTE_SHR s` (R120). -/
def execComputeShr (st : Dim) (s : State) : Host.Outcome State Fault Refusal :=
  runUnit (computeShr st.toNat) s

end Sys2Proof.Machine
end

