-- ==== Sys2Proof/Machine/FamilyA.lean ====
section
/-! DEFINITION. Pixel Codec Families A and A6 (42_family_a.md): the four stream codes, the two encoders, the decoders
and their meanings. -/

namespace Sys2Proof.Machine

/-! ## Stream codes (R136 to R139) -/

/-- `A.REP` (R136). -/
def applyARep : Act Unit := do
  needPixel
  putNext

/-- `A.LIT v` (R137): `COLOR <- zext_8(v)`. -/
def applyALit (v : Byte) : Act Unit := do
  needPixel
  setDp fun d => { d with color := v }
  putNext

/-- `A.DELTA d` (R138): `COLOR <- u8(COLOR + d)`. -/
def applyADelta (delta : Int) : Act Unit := do
  needPixel
  setDp fun d => { d with color := d.color + BitVec.ofInt 8 delta }
  putNext

/-- The repetitions of a run-length escape still to produce, counted down in `RUN` (R21, R139). -/
def runPixels : Nat → Act Unit
  | 0 => return ()
  | n + 1 => do
    putNext
    setDp fun d => { d with run := n }
    runPixels n

/-- `A.RUN N` (R139): `N` = 0 is reserved (R134); a run longer than the stripe is clipped (R135). -/
def applyARun (n : Byte) : Act Unit := do
  if n = 0 then
    throw (.raise .format)
  else do
    let s ← get
    setDp fun d => { d with run := min n.toNat (s.npix - s.dp.k) }
    runPixels (min n.toNat (s.npix - s.dp.k))

/-! ## Decoders (R132, R133) -/

/-- The first pixel of a stripe stream, common to all families (R79, R132, R142): `COLOR <- BU.READ_NBITS 8; PUT(0, COLOR);
K <- 1`. -/
def decodeFirst : Act Unit := do
  let c ← readNbits 8
  setDp fun d => { d with color := c }
  put 0 c
  setDp fun d => { d with k := 1 }

/-- The condition of every decoder's loop: pixels are left (R132, R142). -/
def State.pixelsLeft (s : State) : Bool := decide (s.dp.k < s.npix)

/-- One code of R132's loop: read through the Bit Unpacker, then applied. -/
def decodeACode : Act Unit := do
  let shr := (← get).dp.shr
  walkA readNbits shr
    { rep := applyARep
      lit := applyALit
      delta := applyADelta
      run := applyARun }

/-- `DEC_A` and its variants (R132, R133): every code produces at least one pixel, so `NPIX` codes suffice.
A stripe index of `WIDTH` / 8 or more is run as written: DESIGN CHOICE (log 26). Presented on its own it reads from the stream
cursor wherever that stands, with no `BU.INIT` of its own: DESIGN CHOICE (log 31). -/
def decodeA (st : Nat) (f : Family) (tr : Bool) : Act Unit := do
  beginStripe st f tr
  decodeFirst
  whileUpTo State.pixelsLeft decodeACode (← get).npix

/-! ## Encoders (R130, R131) -/

/-- The registers an encoder works on: `COLOR`, `INC`, `K` and the Bit Packer (R21, R22). -/
structure Enc where
  color : Byte
  inc : Dir
  k : Nat
  bp : Packer
  deriving DecidableEq, Repr

/-- The number of leading bytes equal to a value (R130, R190: "the number of consecutive ..."). -/
def runLength (v : Byte) : List Byte → Nat
  | [] => 0
  | x :: xs => if x = v then 1 + runLength v xs else 0

/-- The signed difference modulo 256, `s8(p - COLOR)` (R130). -/
def deltaTo (color p : Byte) : Int := (p - color).toInt

/-- The bits of `A.DELTA d`, or with 0 the prefix of `A.RUN` (R130, R82, R83). -/
def Packer.writeDelta (p : Packer) (d : Int) : Packer :=
  ((p.writeBit true).writeBit true).writeNbits (BitVec.ofNat 8 (fieldOfDelta Config.deltaCoding d)) 3

/-- The bits of a literal code (R81, R85). -/
def Packer.writeLit (p : Packer) (v : Byte) (shr : ShiftWidth) : Packer :=
  ((p.writeBit true).writeBit false).writeNbits v shr.toNat

/-- The loop of R130 over the pixels not yet coded; `escape` is true for `ENC_A`. The count bounds the codes. -/
def encodeALoop (escape : Bool) (shr : ShiftWidth) : Nat → Enc → List Byte → Enc
  | 0, e, _ => e
  | _ + 1, e, [] => e
  | n + 1, e, p :: ps =>
    if p = e.color then
      if escape && decide (Config.runThreshold ≤ runLength e.color (p :: ps)) then
        encodeALoop escape shr n
          { e with
            k := e.k + min (runLength e.color (p :: ps)) Config.runMax
            bp := (e.bp.writeDelta 0).writeByte (BitVec.ofNat 8 (min (runLength e.color (p :: ps)) Config.runMax)) }
          ((p :: ps).drop (min (runLength e.color (p :: ps)) Config.runMax))
      else
        encodeALoop escape shr n { e with k := e.k + 1, bp := e.bp.writeBit false } ps
    else if -4 ≤ deltaTo e.color p ∧ deltaTo e.color p ≤ 3 then
      encodeALoop escape shr n
        { e with color := p, k := e.k + 1, bp := e.bp.writeDelta (deltaTo e.color p) } ps
    else
      encodeALoop escape shr n { e with color := p, k := e.k + 1, bp := e.bp.writeLit p shr } ps

/-- What every encoder starts from (R79, R130, R140): an empty packer, the first pixel as a raw byte. -/
def Enc.start (p0 : Byte) : Enc :=
  { color := p0, inc := .down, k := 1, bp := Packer.init.writeByte p0 }

/-- R130 and R131 on a stripe's pixels `p0 :: ps` in raster order. -/
def encodeA (escape : Bool) (shr : ShiftWidth) (p0 : Byte) (ps : List Byte) : Enc :=
  let e := encodeALoop escape shr ps.length (Enc.start p0) ps
  { e with bp := e.bp.flush }

/-- An encoder's registers stored back. -/
def storeEnc (e : Enc) : Act Unit :=
  modify fun s => (s.setBp e.bp).setDp { s.dp with color := e.color, inc := e.inc, k := e.k }

/-- A stripe encoder: the pixels of stripe `st` in the family's order, encoded with `SHR`; the stream is in `WOUT`
(R130, R131, R140, R141). A stripe index of `WIDTH` / 8 or more is run as written: DESIGN CHOICE (log 26). -/
def encodeStripe (st : Nat) (f : Family) (enc : ShiftWidth → Byte → List Byte → Enc) : Act Unit := do
  beginStripe st f false
  let p0 ← readByte ((← get).pixelAddr f 0)
  let ps ← readPixels f ((← get).npix - 1) 1
  storeEnc (enc (← get).dp.shr p0 ps)

/-- `ENC_A s` (R130). -/
def encA (st : Nat) : Act Unit := encodeStripe st .a (encodeA true)

/-- `ENC_A6 s` (R131). -/
def encA6 (st : Nat) : Act Unit := encodeStripe st .a6 (encodeA false)

/-! ## Meanings -/

/-- `A.REP` (R136). -/
def execARep (s : State) : Host.Outcome State Fault Refusal :=
  runUnit applyARep s

/-- `A.LIT v` (R137). -/
def execALit (v : Byte) (s : State) : Host.Outcome State Fault Refusal :=
  runUnit (applyALit v) s

/-- `A.DELTA d` (R138). -/
def execADelta (d : Int) (s : State) : Host.Outcome State Fault Refusal :=
  runUnit (applyADelta d) s

/-- `A.RUN N` (R139). -/
def execARun (n : Byte) (s : State) : Host.Outcome State Fault Refusal :=
  runUnit (applyARun n) s

/-- `ENC_A s` (R130). -/
def execEncA (st : Dim) (s : State) : Host.Outcome State Fault Refusal :=
  runUnit (encA st.toNat) s

/-- `ENC_A6 s` (R131). -/
def execEncA6 (st : Dim) (s : State) : Host.Outcome State Fault Refusal :=
  runUnit (encA6 st.toNat) s

/-- `DEC_A s` (R132). -/
def execDecA (st : Dim) (s : State) : Host.Outcome State Fault Refusal :=
  runUnit (decodeA st.toNat .a false) s

/-- `DEC_A6 s`, select 0x11: the Family A decoder (R73, R132). -/
def execDecA6 (st : Dim) (s : State) : Host.Outcome State Fault Refusal :=
  runUnit (decodeA st.toNat .a6 false) s

/-- `DEC_A_T s` (R133). -/
def execDecAT (st : Dim) (s : State) : Host.Outcome State Fault Refusal :=
  runUnit (decodeA st.toNat .a true) s

/-- `DEC_A6_T s`, select 0x15: the transparent Family A decoder (R73, R133). -/
def execDecA6T (st : Dim) (s : State) : Host.Outcome State Fault Refusal :=
  runUnit (decodeA st.toNat .a6 true) s

end Sys2Proof.Machine
end

