-- ==== Sys2Proof/Machine/FamilyBC.lean ====
section
/-! DEFINITION. Pixel Codec Families B and C (43_family_bc.md): the four stream codes, the encoders, the decoders and their
meanings. -/

namespace Sys2Proof.Machine

/-! ## Stream codes (R146 to R149) -/

/-- `B.REP` (R146). -/
def applyBRep : Act Unit := do
  needPixel
  putNext

/-- `B.LIT v` (R147): `INC` back to -1. -/
def applyBLit (v : Byte) : Act Unit := do
  needPixel
  setDp fun d => { d with color := v, inc := .down }
  putNext

/-- `B.STEP` (R148): `COLOR <- u8(COLOR + INC)`. -/
def applyBStep : Act Unit := do
  needPixel
  setDp fun d => { d with color := d.color + d.inc.toByte }
  putNext

/-- `B.REV` (R149): the new `INC` is the one added. -/
def applyBRev : Act Unit := do
  needPixel
  setDp fun d => { d with inc := d.inc.flip, color := d.color + d.inc.flip.toByte }
  putNext

/-! ## Decoders (R142 to R145) -/

/-- One code of R142's loop: read through the Bit Unpacker, then applied. -/
def decodeBCode : Act Unit := do
  let shr := (← get).dp.shr
  walkB readNbits shr
    { rep := applyBRep
      lit := applyBLit
      step := applyBStep
      rev := applyBRev }

/-- `DEC_B`, `DEC_C` and their variants (R142 to R145): the family fixes where `PUT` places a pixel. A stripe
index of `WIDTH` / 8 or more is run as written: DESIGN CHOICE (log 26). Presented on its own it reads from the stream cursor
wherever that stands, with no `BU.INIT` of its own: DESIGN CHOICE (log 31). -/
def decodeB (st : Nat) (f : Family) (tr : Bool) : Act Unit := do
  beginStripe st f tr
  decodeFirst
  whileUpTo State.pixelsLeft decodeBCode (← get).npix

/-! ## Encoders (R140, R141) -/

/-- The loop of R140: repeat, step, reverse, literal, in that order. -/
def encodeBLoop (shr : ShiftWidth) : Enc → List Byte → Enc
  | e, [] => e
  | e, p :: ps =>
    if p = e.color then
      encodeBLoop shr { e with k := e.k + 1, bp := e.bp.writeBit false } ps
    else if p = e.color + e.inc.toByte then
      encodeBLoop shr
        { e with
          color := p
          k := e.k + 1
          bp := ((e.bp.writeBit true).writeBit true).writeBit false } ps
    else if p = e.color - e.inc.toByte then
      encodeBLoop shr
        { color := p
          inc := e.inc.flip
          k := e.k + 1
          bp := ((e.bp.writeBit true).writeBit true).writeBit true } ps
    else
      encodeBLoop shr { color := p, inc := .down, k := e.k + 1, bp := e.bp.writeLit p shr } ps

/-- R140 and R141 on a stripe's pixels `p0 :: ps` in the family's order. -/
def encodeB (shr : ShiftWidth) (p0 : Byte) (ps : List Byte) : Enc :=
  let e := encodeBLoop shr (Enc.start p0) ps
  { e with bp := e.bp.flush }

/-- `ENC_B s` (R140). -/
def encB (st : Nat) : Act Unit := encodeStripe st .b encodeB

/-- `ENC_C s` (R141). -/
def encC (st : Nat) : Act Unit := encodeStripe st .c encodeB

/-! ## Meanings -/

/-- `B.REP` (R146). -/
def execBRep (s : State) : Host.Outcome State Fault Refusal :=
  runUnit applyBRep s

/-- `B.LIT v` (R147). -/
def execBLit (v : Byte) (s : State) : Host.Outcome State Fault Refusal :=
  runUnit (applyBLit v) s

/-- `B.STEP` (R148). -/
def execBStep (s : State) : Host.Outcome State Fault Refusal :=
  runUnit applyBStep s

/-- `B.REV` (R149). -/
def execBRev (s : State) : Host.Outcome State Fault Refusal :=
  runUnit applyBRev s

/-- `ENC_B s` (R140). -/
def execEncB (st : Dim) (s : State) : Host.Outcome State Fault Refusal :=
  runUnit (encB st.toNat) s

/-- `ENC_C s` (R141). -/
def execEncC (st : Dim) (s : State) : Host.Outcome State Fault Refusal :=
  runUnit (encC st.toNat) s

/-- `DEC_B s` (R142). -/
def execDecB (st : Dim) (s : State) : Host.Outcome State Fault Refusal :=
  runUnit (decodeB st.toNat .b false) s

/-- `DEC_C s` (R144). -/
def execDecC (st : Dim) (s : State) : Host.Outcome State Fault Refusal :=
  runUnit (decodeB st.toNat .c false) s

/-- `DEC_B_T s` (R143). -/
def execDecBT (st : Dim) (s : State) : Host.Outcome State Fault Refusal :=
  runUnit (decodeB st.toNat .b true) s

/-- `DEC_C_T s` (R145). -/
def execDecCT (st : Dim) (s : State) : Host.Outcome State Fault Refusal :=
  runUnit (decodeB st.toNat .c true) s

end Sys2Proof.Machine
end

