-- ==== Sys2Proof/Machine/ImageEncoder.lean ====
section
/-! DEFINITION. The Stripe Codec Selector and the image encoder (44_image_encoder.md): `SELECT` and `ENC_IMAGE`. -/

namespace Sys2Proof.Machine

/-- The encoder of a family (R150: always the opaque one). -/
def encodeFamily (f : Family) (st : Nat) : Act Unit :=
  match f with
  | .a => encA st
  | .a6 => encA6 st
  | .b => encB st
  | .c => encC st

/-- `CAND[f] <- ENC_f s, shr` for each family of a list in turn (R152). -/
def encodeCandidates (st : Nat) : List Family → Act Unit
  | [] => return ()
  | f :: fs => do
    encodeFamily f st
    modify fun s => s.setSel { s.sel with cand := s.sel.cand.set f s.bp.wout }
    encodeCandidates st fs

/-- The best so far, replaced only by a strictly shorter candidate (R152 corner case (b)). -/
def pickShortest (c : Cands) : Family → List Family → Family
  | best, [] => best
  | best, f :: fs => pickShortest c (if c.clen f < c.clen best then f else best) fs

/-- The winner among the candidates in `SEL_ORDER` (R152). -/
def Cands.winner (c : Cands) : Family :=
  match Config.selOrder with
  | [] => .a
  | f :: fs => pickShortest c f fs

/-- The results of the stripes, one entry for each stripe (R25). -/
def putBest (bs : List Best) (b : Best) : List Best :=
  bs.filter (fun x => decide (x.stripe ≠ b.stripe)) ++ [b]

/-- What `SELECT s` returns, from the registers after the four encoders have run (R152). -/
def State.selected (s : State) (st : Nat) : Best :=
  { stripe := st
    fam := s.sel.cand.winner
    shr := s.dp.shr
    stream := s.sel.cand.get s.sel.cand.winner }

/-- `SELECT s` (R152). What R152 returns is stored as the entry of stripe `s`, in place of an earlier one, also outside pass 1
of R156: DESIGN CHOICE (log 29). A stripe index of `WIDTH` / 8 or more is run as written: DESIGN CHOICE (log 26). -/
def selectStripe (st : Nat) : Act Unit := do
  computeShr st
  encodeCandidates st Config.selOrder
  modify fun s => s.setSel { s.sel with best := putBest s.sel.best (s.selected st) }

/-- Pass 1 of R156 for one stripe: `SELECT`, then `TOTAL` grows by the record's length. -/
def sizeStripe (st : Nat) : Act Unit := do
  selectStripe st
  modify fun s => s.setSel { s.sel with total := s.sel.total + (s.selected st).len }

/-- Pass 2 of R156, the offset table: the entry of stripe `i` and on, the first record being at `ofs`. -/
def writeOffsets : Nat → Nat → List Best → Act Unit
  | _, _, [] => return ()
  | i, ofs, b :: bs => do
    writeBytes ((← get).regs.blobBase.toNat + 4 * i) (bytesLE 4 ofs)
    writeOffsets (i + 1) (ofs + b.len) bs

/-- Pass 2 of R156, the records: type byte (R155) and stream, with the accounting test (R158). -/
def writeRecords : List Best → Act Unit
  | [] => return ()
  | b :: bs => do
    let s ← get
    writeByte (s.regs.blobBase.toNat + s.sel.wpos) (typeByte b.fam s.regs.transpEn b.shr)
    writeBytes (s.regs.blobBase.toNat + s.sel.wpos + 1) b.stream
    modify fun s => s.setSel { s.sel with wpos := s.sel.wpos + b.len }
    let s ← get
    if s.sel.total < s.sel.wpos then
      throw (.raise .acct)
    else
      writeRecords bs

/-- `ENC_IMAGE` (R156); its value is `TOTAL`, for `OUT_LEN`. -/
def encodeImage : Act Nat := do
  checkPrecond
  let s ← get
  checkLaunch s.regs.width.toNat
  modify fun s => s.setSel { s.sel with best := [], total := 4 * s.stripes }
  eachFrom sizeStripe s.stripes 0
  let s ← get
  if s.regs.blobSize.toNat < s.sel.total then
    throw (.raise .noSpace)
  else do
    writeOffsets 0 (4 * s.stripes + Config.smapOfsBias) s.sel.best
    modify fun s => s.setSel { s.sel with wpos := 4 * s.stripes }
    writeRecords s.sel.best
    return s.sel.total

/-- `SELECT s` (R152). -/
def execSelect (st : Dim) (s : State) : Host.Outcome State Fault Refusal :=
  runUnit (selectStripe st.toNat) s

/-- `ENC_IMAGE` (R156). -/
def execEncImage (s : State) : Host.Outcome State Fault Refusal :=
  runCommand encodeImage s

end Sys2Proof.Machine
end

