-- ==== Sys2Proof/Machine/ImageDecoder.lean ====
section
/-! DEFINITION. The image decoder (45_image_decoder.md): the offset table, the dispatch on the type byte and `DEC_IMAGE`;
the meanings of the 40 `TYPE` instructions. -/

namespace Sys2Proof.Machine

/-- The offset entry of stripe `S` and the type byte it points at, both bound-checked (R170, R171); the entry is used as
given (R172) and kept for the bitstream's start. With `S` at `WIDTH` / 8 or more it reads the entry that would stand there: DESIGN
CHOICE (log 26). -/
def fetchType : Act Byte := do
  let s ← get
  if s.regs.blobSize.toNat < 4 * s.sel.stripe + 4 then
    throw (.raise .trunc)
  else do
    let entry ← readLE 4 (s.regs.blobBase.toNat + 4 * s.sel.stripe)
    modify fun s => s.setSel { s.sel with ofs := entry - Config.smapOfsBias }
    let s ← get
    if s.regs.blobSize.toNat ≤ s.sel.ofs then
      throw (.raise .trunc)
    else
      readByte (s.regs.blobBase.toNat + s.sel.ofs)

/-- The family decoder of the stripe in `S` (R175): A and A6 share one (R74). -/
def decodeFamily (f : Family) (tr : Bool) : Act Unit := do
  let st := (← get).sel.stripe
  match f with
  | .a => decodeA st .a tr
  | .a6 => decodeA st .a6 tr
  | .b => decodeB st .b tr
  | .c => decodeB st .c tr

/-- The dispatch of a recognised type byte (R170, R173, R175, R176): the running `HAS_TRANSP`, the Bit Unpacker on the byte
after the type byte, `SHR`, and the decoder, transparent exactly when the base is transparency-capable and `TRANSP.EN` is 1. -/
def dispatchType (f : Family) (tcap : Bool) (shr : ShiftWidth) : Act Unit := do
  modify fun s => s.setSel { s.sel with hasTransp := s.sel.hasTransp || tcap }
  let s ← get
  unpackerInit (s.regs.blobBase.toNat + s.sel.ofs + 1) s.blobEnd
  setDp fun d => { d with shr := shr }
  decodeFamily f (tcap && s.regs.transpEn)

/-- One stripe of R170: fetch, then warn and skip (R174) or dispatch. -/
def decodeRecord (st : Nat) : Act Unit := do
  modify fun s => s.setSel { s.sel with stripe := st }
  let b ← fetchType
  match decodeType b with
  | none => modify warn
  | some (f, tcap, shr) => dispatchType f tcap shr

/-- `DEC_IMAGE` (R170); `OUT_LEN` is 0 after a decode (R41). -/
def decodeImage : Act Nat := do
  checkPrecond
  let s ← get
  checkLaunch s.regs.width.toNat
  eachFrom decodeRecord s.stripes 0
  return 0

/-- `DEC_IMAGE` (R170). -/
def execDecImage (s : State) : Host.Outcome State Fault Refusal :=
  runCommand decodeImage s

/-! ## The type bytes -/

/-- `TYPE.C.4`, type byte 14 (R74, R175). -/
def execTypeC_4 (s : State) : Host.Outcome State Fault Refusal :=
  runUnit (dispatchType .c false .w4) s

/-- `TYPE.C.5`, type byte 15 (R74, R175). -/
def execTypeC_5 (s : State) : Host.Outcome State Fault Refusal :=
  runUnit (dispatchType .c false .w5) s

/-- `TYPE.C.6`, type byte 16 (R74, R175). -/
def execTypeC_6 (s : State) : Host.Outcome State Fault Refusal :=
  runUnit (dispatchType .c false .w6) s

/-- `TYPE.C.7`, type byte 17 (R74, R175). -/
def execTypeC_7 (s : State) : Host.Outcome State Fault Refusal :=
  runUnit (dispatchType .c false .w7) s

/-- `TYPE.C.8`, type byte 18 (R74, R175). -/
def execTypeC_8 (s : State) : Host.Outcome State Fault Refusal :=
  runUnit (dispatchType .c false .w8) s

/-- `TYPE.B.4`, type byte 24 (R74, R175). -/
def execTypeB_4 (s : State) : Host.Outcome State Fault Refusal :=
  runUnit (dispatchType .b false .w4) s

/-- `TYPE.B.5`, type byte 25 (R74, R175). -/
def execTypeB_5 (s : State) : Host.Outcome State Fault Refusal :=
  runUnit (dispatchType .b false .w5) s

/-- `TYPE.B.6`, type byte 26 (R74, R175). -/
def execTypeB_6 (s : State) : Host.Outcome State Fault Refusal :=
  runUnit (dispatchType .b false .w6) s

/-- `TYPE.B.7`, type byte 27 (R74, R175). -/
def execTypeB_7 (s : State) : Host.Outcome State Fault Refusal :=
  runUnit (dispatchType .b false .w7) s

/-- `TYPE.B.8`, type byte 28 (R74, R175). -/
def execTypeB_8 (s : State) : Host.Outcome State Fault Refusal :=
  runUnit (dispatchType .b false .w8) s

/-- `TYPE.C_T.4`, type byte 34 (R74, R175). -/
def execTypeCT_4 (s : State) : Host.Outcome State Fault Refusal :=
  runUnit (dispatchType .c true .w4) s

/-- `TYPE.C_T.5`, type byte 35 (R74, R175). -/
def execTypeCT_5 (s : State) : Host.Outcome State Fault Refusal :=
  runUnit (dispatchType .c true .w5) s

/-- `TYPE.C_T.6`, type byte 36 (R74, R175). -/
def execTypeCT_6 (s : State) : Host.Outcome State Fault Refusal :=
  runUnit (dispatchType .c true .w6) s

/-- `TYPE.C_T.7`, type byte 37 (R74, R175). -/
def execTypeCT_7 (s : State) : Host.Outcome State Fault Refusal :=
  runUnit (dispatchType .c true .w7) s

/-- `TYPE.C_T.8`, type byte 38 (R74, R175). -/
def execTypeCT_8 (s : State) : Host.Outcome State Fault Refusal :=
  runUnit (dispatchType .c true .w8) s

/-- `TYPE.B_T.4`, type byte 44 (R74, R175). -/
def execTypeBT_4 (s : State) : Host.Outcome State Fault Refusal :=
  runUnit (dispatchType .b true .w4) s

/-- `TYPE.B_T.5`, type byte 45 (R74, R175). -/
def execTypeBT_5 (s : State) : Host.Outcome State Fault Refusal :=
  runUnit (dispatchType .b true .w5) s

/-- `TYPE.B_T.6`, type byte 46 (R74, R175). -/
def execTypeBT_6 (s : State) : Host.Outcome State Fault Refusal :=
  runUnit (dispatchType .b true .w6) s

/-- `TYPE.B_T.7`, type byte 47 (R74, R175). -/
def execTypeBT_7 (s : State) : Host.Outcome State Fault Refusal :=
  runUnit (dispatchType .b true .w7) s

/-- `TYPE.B_T.8`, type byte 48 (R74, R175). -/
def execTypeBT_8 (s : State) : Host.Outcome State Fault Refusal :=
  runUnit (dispatchType .b true .w8) s

/-- `TYPE.A6.4`, type byte 64 (R74, R175). -/
def execTypeA6_4 (s : State) : Host.Outcome State Fault Refusal :=
  runUnit (dispatchType .a6 false .w4) s

/-- `TYPE.A6.5`, type byte 65 (R74, R175). -/
def execTypeA6_5 (s : State) : Host.Outcome State Fault Refusal :=
  runUnit (dispatchType .a6 false .w5) s

/-- `TYPE.A6.6`, type byte 66 (R74, R175). -/
def execTypeA6_6 (s : State) : Host.Outcome State Fault Refusal :=
  runUnit (dispatchType .a6 false .w6) s

/-- `TYPE.A6.7`, type byte 67 (R74, R175). -/
def execTypeA6_7 (s : State) : Host.Outcome State Fault Refusal :=
  runUnit (dispatchType .a6 false .w7) s

/-- `TYPE.A6.8`, type byte 68 (R74, R175). -/
def execTypeA6_8 (s : State) : Host.Outcome State Fault Refusal :=
  runUnit (dispatchType .a6 false .w8) s

/-- `TYPE.A6_T.4`, type byte 84 (R74, R175). -/
def execTypeA6T_4 (s : State) : Host.Outcome State Fault Refusal :=
  runUnit (dispatchType .a6 true .w4) s

/-- `TYPE.A6_T.5`, type byte 85 (R74, R175). -/
def execTypeA6T_5 (s : State) : Host.Outcome State Fault Refusal :=
  runUnit (dispatchType .a6 true .w5) s

/-- `TYPE.A6_T.6`, type byte 86 (R74, R175). -/
def execTypeA6T_6 (s : State) : Host.Outcome State Fault Refusal :=
  runUnit (dispatchType .a6 true .w6) s

/-- `TYPE.A6_T.7`, type byte 87 (R74, R175). -/
def execTypeA6T_7 (s : State) : Host.Outcome State Fault Refusal :=
  runUnit (dispatchType .a6 true .w7) s

/-- `TYPE.A6_T.8`, type byte 88 (R74, R175). -/
def execTypeA6T_8 (s : State) : Host.Outcome State Fault Refusal :=
  runUnit (dispatchType .a6 true .w8) s

/-- `TYPE.A.4`, type byte 104 (R74, R175). -/
def execTypeA_4 (s : State) : Host.Outcome State Fault Refusal :=
  runUnit (dispatchType .a false .w4) s

/-- `TYPE.A.5`, type byte 105 (R74, R175). -/
def execTypeA_5 (s : State) : Host.Outcome State Fault Refusal :=
  runUnit (dispatchType .a false .w5) s

/-- `TYPE.A.6`, type byte 106 (R74, R175). -/
def execTypeA_6 (s : State) : Host.Outcome State Fault Refusal :=
  runUnit (dispatchType .a false .w6) s

/-- `TYPE.A.7`, type byte 107 (R74, R175). -/
def execTypeA_7 (s : State) : Host.Outcome State Fault Refusal :=
  runUnit (dispatchType .a false .w7) s

/-- `TYPE.A.8`, type byte 108 (R74, R175). -/
def execTypeA_8 (s : State) : Host.Outcome State Fault Refusal :=
  runUnit (dispatchType .a false .w8) s

/-- `TYPE.A_T.4`, type byte 124 (R74, R175). -/
def execTypeAT_4 (s : State) : Host.Outcome State Fault Refusal :=
  runUnit (dispatchType .a true .w4) s

/-- `TYPE.A_T.5`, type byte 125 (R74, R175). -/
def execTypeAT_5 (s : State) : Host.Outcome State Fault Refusal :=
  runUnit (dispatchType .a true .w5) s

/-- `TYPE.A_T.6`, type byte 126 (R74, R175). -/
def execTypeAT_6 (s : State) : Host.Outcome State Fault Refusal :=
  runUnit (dispatchType .a true .w6) s

/-- `TYPE.A_T.7`, type byte 127 (R74, R175). -/
def execTypeAT_7 (s : State) : Host.Outcome State Fault Refusal :=
  runUnit (dispatchType .a true .w7) s

/-- `TYPE.A_T.8`, type byte 128 (R74, R175). -/
def execTypeAT_8 (s : State) : Host.Outcome State Fault Refusal :=
  runUnit (dispatchType .a true .w8) s

end Sys2Proof.Machine
end

