-- ==== Sys2Proof/Machine/MaskCodec.lean ====
section
/-! DEFINITION. The mask codec (46_mask_codec.md): the run forms, `ENC_MASK_COL`, `DEC_MASK_COL`, `ENC_MASK` and
`DEC_MASK`. -/

namespace Sys2Proof.Machine

/-! ## One column: decoding (R192, R193) -/

/-- `for j in 0 .. n-1: WR(y + j, v)` (R192). -/
def repeatRows (v : Byte) : Nat → Nat → Act Unit
  | 0, _ => return ()
  | n + 1, y => do
    writeRow y v
    repeatRows v n (y + 1)

/-- `for j in 0 .. n-1: WR(y + j, next())` (R192). -/
def literalRows : Nat → Nat → Act Unit
  | 0, _ => return ()
  | n + 1, y => do
    let v ← nextByte
    writeRow y v
    literalRows n (y + 1)

/-- The rows a run of `n` fills: clipped to the rows left (R193). -/
def State.clippedRows (s : State) (n : BitVec 7) : Nat := min n.toNat (s.regs.height.toNat - s.mask.y)

/-- `M.REP n, v` (R192): the value byte is read before any row is written. Presented on its own with `S` at `WIDTH` / 8 or more
it fills rows at R51's formula, beyond the row: DESIGN CHOICE (log 26). -/
def applyMRep (n : BitVec 7) (v : Byte) : Act Unit := do
  if n = 0 then
    throw (.raise .format)
  else do
    let s ← get
    repeatRows v (s.clippedRows n) s.mask.y
    setMask fun m => { m with y := m.y + s.clippedRows n }

/-- `M.LIT n` (R192): each payload byte is read when its row is written, and none beyond the rows left (R193). Presented on its
own with `S` at `WIDTH` / 8 or more it fills rows at R51's formula, beyond the row: DESIGN CHOICE (log 26). -/
def applyMLit (n : BitVec 7) : Act Unit := do
  if n = 0 then
    throw (.raise .format)
  else do
    let s ← get
    literalRows (s.clippedRows n) s.mask.y
    setMask fun m => { m with y := m.y + s.clippedRows n }

/-- A reserved header (R92, R193): `ERR_FORMAT`. -/
def applyMReserved : Act Unit := throw (.raise .format)

/-- The condition of R192's loop: rows are left. -/
def State.rowsLeft (s : State) : Bool := decide (s.mask.y < s.regs.height.toNat)

/-- One run of R192's loop: read at `MPTR`, then replayed. -/
def decodeMaskRun : Act Unit :=
  walkM nextByte
    { rep := applyMRep
      lit := applyMLit
      rsvLit0 := applyMReserved
      rsvRep0 := applyMReserved }

/-- `DEC_MASK_COL s, ofs` (R192): every run fills at least one row, so `HEIGHT` runs suffice. R192 calls `ofs` non-zero; an `ofs`
of 0 is run as written, the record being read at `BLOB_BASE`: DESIGN CHOICE (log 27). A stripe index of `WIDTH` / 8 or more is
run as written: DESIGN CHOICE (log 26). -/
def decodeColumn (st ofs : Nat) : Act Unit := do
  modify fun s => s.setSel { s.sel with stripe := st }
  let s ← get
  setMask fun m => { m with mptr := s.regs.blobBase.toNat + ofs, y := 0 }
  whileUpTo State.rowsLeft decodeMaskRun s.regs.height.toNat

/-! ## One column: encoding (R190) -/

/-- `flush_lit` (R190). -/
def MaskRegs.flushLit (m : MaskRegs) : MaskRegs :=
  { m with
    out := if 0 < m.litcnt then m.out ++ BitVec.ofNat 8 m.litcnt :: m.litbuf else m.out
    litbuf := [] }

/-- The loop of R190 over the bytes from row `Y` on. The count bounds the runs. -/
def encodeColumnLoop : Nat → MaskRegs → List Byte → MaskRegs
  | 0, m, _ => m
  | _ + 1, m, [] => m
  | n + 1, m, v :: vs =>
    if Config.mrunMin ≤ runLength v (v :: vs) then
      encodeColumnLoop n
        { m.flushLit with
          out := m.flushLit.out ++ [0x80 ||| BitVec.ofNat 8 (min (runLength v (v :: vs)) Config.mrunMax), v]
          y := m.y + min (runLength v (v :: vs)) Config.mrunMax }
        ((v :: vs).drop (min (runLength v (v :: vs)) Config.mrunMax))
    else
      encodeColumnLoop n
        (if m.litcnt + 1 = Config.mrunMax then
          MaskRegs.flushLit { m with litbuf := m.litbuf ++ [v], y := m.y + 1 }
        else { m with litbuf := m.litbuf ++ [v], y := m.y + 1 })
        vs

/-- R190 on the bytes of a column; `MPTR` ends as the count of record bytes written (R26). -/
def MaskRegs.encodeColumn (m : MaskRegs) (col : List Byte) : MaskRegs :=
  let e := (encodeColumnLoop col.length { m with out := [], litbuf := [], y := 0 } col).flushLit
  { e with mptr := e.out.length }

/-- `ENC_MASK_COL s` (R190); the record is in `out`. A stripe index of `WIDTH` / 8 or more is run as written: DESIGN CHOICE
(log 26). -/
def encodeColumn (st : Nat) : Act Unit := do
  modify fun s => s.setSel { s.sel with stripe := st }
  let col ← readColumn (← get).regs.height.toNat 0
  setMask fun m => m.encodeColumn col

/-! ## The commands (R194, R196) -/

/-- One stripe of R194's first loop; `TOTAL` is the running `ofs`. -/
def sizeColumn (st : Nat) : Act Unit := do
  modify fun s => s.setSel { s.sel with stripe := st }
  let col ← readColumn (← get).regs.height.toNat 0
  if col.all (fun b => decide (b = 0)) then
    setMask fun m => { m with zofs := m.zofs ++ [0], recs := m.recs ++ [[]] }
  else do
    let ofs := (← get).sel.total
    if 0xFFFF < ofs then
      throw (.raise .range)
    else do
      encodeColumn st
      setMask fun m => { m with zofs := m.zofs ++ [ofs], recs := m.recs ++ [m.out] }
      modify fun s => s.setSel { s.sel with total := s.sel.total + s.mask.out.length }

/-- `ENC_MASK` (R194); its value is `TOTAL`, for `OUT_LEN`. -/
def encodeMask : Act Nat := do
  checkPrecond
  let s ← get
  checkLaunch s.stripes
  modify fun s => s.setSel { s.sel with total := 2 * s.stripes }
  setMask fun m => { m with zofs := [], recs := [] }
  eachFrom sizeColumn s.stripes 0
  let s ← get
  if s.regs.blobSize.toNat < s.sel.total then
    throw (.raise .noSpace)
  else do
    writeBytes s.regs.blobBase.toNat (s.mask.zofs.flatMap fun z => bytesLE 2 z)
    writeBytes (s.regs.blobBase.toNat + 2 * s.stripes) s.mask.recs.flatten
    return s.sel.total

/-- An absent column (R196, R250): zero-filled in overwrite mode, not accessed in OR mode. -/
def decodeAbsent : Act Unit := do
  let s ← get
  if s.regs.modeOr then return () else repeatRows 0 s.regs.height.toNat 0

/-- One stripe of R196. -/
def decodeMaskStripe (st : Nat) : Act Unit := do
  modify fun s => s.setSel { s.sel with stripe := st }
  let s ← get
  if s.regs.blobSize.toNat < 2 * st + 2 then
    throw (.raise .trunc)
  else do
    let ofs ← readLE 2 (s.regs.blobBase.toNat + 2 * st)
    if ofs = 0 then decodeAbsent else decodeColumn st ofs

/-- `DEC_MASK` (R196); `OUT_LEN` is 0 after a decode (R41). -/
def decodeMask : Act Nat := do
  checkPrecond
  let s ← get
  checkLaunch s.stripes
  eachFrom decodeMaskStripe s.stripes 0
  return 0

/-! ## Meanings -/

/-- `ENC_MASK` (R194). -/
def execEncMask (s : State) : Host.Outcome State Fault Refusal :=
  runCommand encodeMask s

/-- `DEC_MASK` (R196). -/
def execDecMask (s : State) : Host.Outcome State Fault Refusal :=
  runCommand decodeMask s

/-- `ENC_MASK_COL s` (R190). -/
def execEncMaskCol (st : Dim) (s : State) : Host.Outcome State Fault Refusal :=
  runUnit (encodeColumn st.toNat) s

/-- `DEC_MASK_COL s, ofs` (R192). -/
def execDecMaskCol (st : Dim) (ofs : BitVec 16) (s : State) : Host.Outcome State Fault Refusal :=
  runUnit (decodeColumn st.toNat ofs.toNat) s

/-- `M.REP n, v` (R192). -/
def execMRep (n : BitVec 7) (v : Byte) (s : State) : Host.Outcome State Fault Refusal :=
  runUnit (applyMRep n v) s

/-- `M.LIT n` (R192). -/
def execMLit (n : BitVec 7) (s : State) : Host.Outcome State Fault Refusal :=
  runUnit (applyMLit n) s

/-- The reserved header 0x00 (R92, R193): its effect is `ERR_FORMAT`. -/
def execMRsvLit0 (s : State) : Host.Outcome State Fault Refusal :=
  runUnit applyMReserved s

/-- The reserved header 0x80 (R92, R193): its effect is `ERR_FORMAT`. -/
def execMRsvRep0 (s : State) : Host.Outcome State Fault Refusal :=
  runUnit applyMReserved s

end Sys2Proof.Machine
end

