-- ==== Sys2Proof/Machine/HostPort.lean ====
section
/-! DEFINITION. The host's register window (10_state.md section 5): reads and writes of the fifteen registers. -/

namespace Sys2Proof.Machine

/-- The value of the register at an offset (R30 to R46): `CMD` reads 0 (R31), reserved bits read 0, offsets of 0x3C and above
read 0. -/
def readRegister (s : State) (off : Word) : Word :=
  match off.toNat with
  | 0x04 => s.regs.status.word
  | 0x08 => s.regs.pixBase.setWidth 32
  | 0x0C => s.regs.stride.setWidth 32
  | 0x10 => s.regs.width.setWidth 32
  | 0x14 => s.regs.height.setWidth 32
  | 0x18 => 0#23 ++ BitVec.ofBool s.regs.transpEn ++ s.regs.transpColor
  | 0x1C => s.regs.palmod.setWidth 32
  | 0x20 => s.regs.blobBase.setWidth 32
  | 0x24 => s.regs.blobSize.setWidth 32
  | 0x28 => s.regs.outLen.setWidth 32
  | 0x2C => 0#31 ++ BitVec.ofBool s.regs.modeOr
  | 0x30 => s.regs.errInfo.setWidth 32
  | 0x34 => s.regs.warnCnt.setWidth 32
  | 0x38 => s.regs.loglevel.setWidth 32
  | _ => 0

/-- The argument registers after a write, truncated to each register's width (R33 to R42, R46); read-only registers and
other offsets ignore it (R32, R41, R43, R44, R46). -/
def Regs.writeArgument (r : Regs) (off v : Word) : Regs :=
  match off.toNat with
  | 0x08 => { r with pixBase := v.setWidth Config.aw }
  | 0x0C => { r with stride := v.setWidth Config.aw }
  | 0x10 => { r with width := v.setWidth Config.dimw }
  | 0x14 => { r with height := v.setWidth Config.dimw }
  | 0x18 => { r with transpColor := v.setWidth 8, transpEn := v.getLsbD 8 }
  | 0x1C => { r with palmod := v.setWidth 8 }
  | 0x20 => { r with blobBase := v.setWidth Config.aw }
  | 0x24 => { r with blobSize := v.setWidth Config.aw }
  | 0x2C => { r with modeOr := v.getLsbD 0 }
  | _ => r

/-- A register write other than to `CMD` (R30, R45, R47): while a command runs only `LOGLEVEL` takes it. -/
def writeRegister (s : State) (off v : Word) : State :=
  if off.toNat = 0x38 then s.setRegs { s.regs with loglevel := v.setWidth 8 }
  else if s.regs.status.busy then s
  else s.setRegs (s.regs.writeArgument off v)

/-- A register access is an aligned word (R30, R54). -/
def alignedOffset (off : Word) : Bool := decide (off.toNat % 4 = 0)

end Sys2Proof.Machine
end

