-- ==== Sys2Proof/Machine/Fetch.lean ====
section
/-! DEFINITION. Taking the next request (log 2): from the host's register window, from an operation select, or from a record
in memory at the stream cursor or at `MPTR` (R27, R60). -/

namespace Sys2Proof.Machine

/-- What a request turns out to be. -/
inductive Fetched where
  /-- An instruction, and the state it runs in (the request taken, the cursor moved past the instruction). -/
  | run (i : Instr) (s : State)
  /-- No instruction: the request is settled by this outcome. -/
  | settled (o : Host.Outcome State Fault Refusal)

/-- A register write (R31, R46, R47): at offset 0 it presents an opcode (R70), an illegal one completing at once (R219). -/
def fetchWrite (s : State) (off v : Word) : Fetched :=
  if alignedOffset off then
    if off = 0 then
      match decode .cmd s.dp.shr [v.setWidth 8] with
      | .ok i => .run i s
      | .error _ => .settled (.next (illegalCommand s))
    else .settled (.next (writeRegister s off v))
  else .settled (.refused .registerAccess)

/-- A register read (R30): the value is left in the read data (log 17). -/
def fetchRead (s : State) (off : Word) : Fetched :=
  if alignedOffset off then .settled (.next (s.setRdata (readRegister s off)))
  else .settled (.refused .registerAccess)

/-- An operation select with its operand lines (R71 to R73); selects never driven are refused (U14), and so are lines that end
before the last operand or hold bits beyond its width (log 22); bytes after the last operand are ignored: DESIGN CHOICE
(log 3). -/
def fetchSelect (s : State) (f : Format) (lines : List Byte) : Fetched :=
  match decode f s.dp.shr lines with
  | .ok i => .run i s
  | .error _ => .settled (.refused .neverDriven)

/-- An instruction read by the engine's own means: an error met while reading completes as `raise` says. -/
def fetchBy (read : Act Instr) (s : State) : Fetched :=
  match read.run s with
  | .ok i s' => .run i s'
  | .error st s' => .settled (stopped st s')

/-- The type byte of stripe `S` (R170, R171): an unrecognised one warns and skips the stripe (R174). -/
def fetchTypeInstr (s : State) : Fetched :=
  match fetchType.run s with
  | .ok b s' =>
    match decode .type s.dp.shr [b] with
    | .ok i => .run i s'
    | .error _ => .settled (.next (warn s'))
  | .error st s' => .settled (stopped st s')

/-- The Family A code at the stream cursor (R132), read before the test that a pixel is left (log 12). -/
def fetchACode : Act Instr := do
  let shr := (← get).dp.shr
  walkA readNbits shr
    { rep := pure .aRep
      lit := fun v => pure (.aLit v)
      delta := fun d => pure (.aDelta d)
      run := fun n => pure (.aRun n) }

/-- The Family B or C code at the stream cursor (R142), read before the test that a pixel is left (log 12). -/
def fetchBCode : Act Instr := do
  let shr := (← get).dp.shr
  walkB readNbits shr
    { rep := pure .bRep
      lit := fun v => pure (.bLit v)
      step := pure .bStep
      rev := pure .bRev }

/-- The mask run at `MPTR` (R192). Requested with no row left, where R192 reads no header, it is read all the same: DESIGN
CHOICE (log 28). -/
def fetchMaskRun : Act Instr :=
  walkM nextByte
    { rep := fun n v => pure (.mRep n v)
      lit := fun n => pure (.mLit n)
      rsvLit0 := pure .mRsvLit0
      rsvRep0 := pure .mRsvRep0 }

/-- A request that has been taken off the queue. -/
def fetchRequest (r : Request) (s : State) : Fetched :=
  match r with
  | .regWrite off v => fetchWrite s off v
  | .regRead off => fetchRead s off
  | .bpop lines => fetchSelect s .bpop lines
  | .buop lines => fetchSelect s .buop lines
  | .uop lines => fetchSelect s .uop lines
  | .nextType => fetchTypeInstr s
  | .nextACode => fetchBy fetchACode s
  | .nextBCode => fetchBy fetchBCode s
  | .nextRun => fetchBy fetchMaskRun s

/-- The next request, if any; with none the engine is idle and nothing changes (R224, R229). -/
def fetch (s : State) : Fetched :=
  match s.bus with
  | [] => .settled (.next s)
  | r :: rest => fetchRequest r (s.setBus rest)

/-! ## Placing one instruction for the next step (the host's question) -/

/-- Bytes stored at ascending addresses, those inside the space. -/
def Memory.place : Memory → Nat → List Byte → Memory
  | m, _, [] => m
  | m, a, b :: bs =>
    Memory.place (if a < Config.addrSpace then m.write a b else m) (a + 1) bs

/-- The state with `STATUS.BUSY` as given. -/
def State.withBusy (s : State) (b : Bool) : State :=
  s.setRegs { s.regs with status := { s.regs.status with busy := b } }

/-- The state with an instruction of format `f`, whose bytes are given (zero bytes up to the longest instruction),
placed where the next step takes it (log 2, log 4): a `CMD` write with no command running; else, with a command running where
memory is reached (R50), a select and its lines; a stripe's table entry, type byte and first pixel in a blob just long enough;
stream bytes at an empty unpacker with a pixel left to produce; a run at `MPTR` in a blob just long enough. -/
def State.place (s : State) (f : Format) (bytes : List Byte) : State :=
  let running := s.withBusy true
  match f with
  | .cmd => (s.withBusy false).setBus [.regWrite 0 ((bytes.headD 0).setWidth 32)]
  | .bpop => s.setBus [.bpop bytes]
  | .buop => running.setBus [.buop bytes]
  | .uop => running.setBus [.uop bytes]
  | .type =>
    { running with
      bus := [.nextType]
      mem := s.mem.place (s.regs.blobBase.toNat + 4 * s.sel.stripe)
        (bytesLE 4 (4 * s.sel.stripe + 4 + Config.smapOfsBias) ++ bytes)
      regs := { running.regs with blobSize := BitVec.ofNat Config.aw (4 * s.sel.stripe + 4 + bytes.length) } }
  | .acode | .bcode =>
    { running with
      bus := [if f = .acode then .nextACode else .nextBCode]
      mem := s.mem.place s.bu.rptr bytes
      bu := { s.bu with racc := 0, rcnt := 0, rend := s.bu.rptr + bytes.length }
      regs := { running.regs with height := if s.regs.height = 0 then 1 else s.regs.height }
      dp := { s.dp with k := if s.dp.k < s.npix then s.dp.k else 0 } }
  | .mrun =>
    { running with
      bus := [.nextRun]
      mem := s.mem.place s.mask.mptr bytes
      regs := { running.regs with
        blobBase := BitVec.ofNat Config.aw s.mask.mptr
        blobSize := BitVec.ofNat Config.aw bytes.length } }

end Sys2Proof.Machine
end

