-- ==== Sys2Proof/Machine/Dispatch.lean ====
section
/-! DEFINITION. One arm for each instruction, each one direct call of its meaning. -/

namespace Sys2Proof.Machine

/-- What an instruction does in a state. -/
def exec (i : Instr) (s : State) : Host.Outcome State Fault Refusal :=
  match i with
  | .encImage => Sys2Proof.Machine.execEncImage s
  | .decImage => Sys2Proof.Machine.execDecImage s
  | .encMask => Sys2Proof.Machine.execEncMask s
  | .decMask => Sys2Proof.Machine.execDecMask s
  | .bpInit => Sys2Proof.Machine.execBpInit s
  | .bpWriteBit b => Sys2Proof.Machine.execBpWriteBit b s
  | .bpWriteNbits v n => Sys2Proof.Machine.execBpWriteNbits v n s
  | .bpWriteByte v => Sys2Proof.Machine.execBpWriteByte v s
  | .bpFlush => Sys2Proof.Machine.execBpFlush s
  | .buInit start stop => Sys2Proof.Machine.execBuInit start stop s
  | .buFill => Sys2Proof.Machine.execBuFill s
  | .buReadBit => Sys2Proof.Machine.execBuReadBit s
  | .buReadNbits n => Sys2Proof.Machine.execBuReadNbits n s
  | .computeShr st => Sys2Proof.Machine.execComputeShr st s
  | .select st => Sys2Proof.Machine.execSelect st s
  | .encMaskCol st => Sys2Proof.Machine.execEncMaskCol st s
  | .decMaskCol st ofs => Sys2Proof.Machine.execDecMaskCol st ofs s
  | .encA st => Sys2Proof.Machine.execEncA st s
  | .encA6 st => Sys2Proof.Machine.execEncA6 st s
  | .encB st => Sys2Proof.Machine.execEncB st s
  | .encC st => Sys2Proof.Machine.execEncC st s
  | .decA st => Sys2Proof.Machine.execDecA st s
  | .decA6 st => Sys2Proof.Machine.execDecA6 st s
  | .decB st => Sys2Proof.Machine.execDecB st s
  | .decC st => Sys2Proof.Machine.execDecC st s
  | .decAT st => Sys2Proof.Machine.execDecAT st s
  | .decA6T st => Sys2Proof.Machine.execDecA6T st s
  | .decBT st => Sys2Proof.Machine.execDecBT st s
  | .decCT st => Sys2Proof.Machine.execDecCT st s
  | .typeC_4 => Sys2Proof.Machine.execTypeC_4 s
  | .typeC_5 => Sys2Proof.Machine.execTypeC_5 s
  | .typeC_6 => Sys2Proof.Machine.execTypeC_6 s
  | .typeC_7 => Sys2Proof.Machine.execTypeC_7 s
  | .typeC_8 => Sys2Proof.Machine.execTypeC_8 s
  | .typeB_4 => Sys2Proof.Machine.execTypeB_4 s
  | .typeB_5 => Sys2Proof.Machine.execTypeB_5 s
  | .typeB_6 => Sys2Proof.Machine.execTypeB_6 s
  | .typeB_7 => Sys2Proof.Machine.execTypeB_7 s
  | .typeB_8 => Sys2Proof.Machine.execTypeB_8 s
  | .typeCT_4 => Sys2Proof.Machine.execTypeCT_4 s
  | .typeCT_5 => Sys2Proof.Machine.execTypeCT_5 s
  | .typeCT_6 => Sys2Proof.Machine.execTypeCT_6 s
  | .typeCT_7 => Sys2Proof.Machine.execTypeCT_7 s
  | .typeCT_8 => Sys2Proof.Machine.execTypeCT_8 s
  | .typeBT_4 => Sys2Proof.Machine.execTypeBT_4 s
  | .typeBT_5 => Sys2Proof.Machine.execTypeBT_5 s
  | .typeBT_6 => Sys2Proof.Machine.execTypeBT_6 s
  | .typeBT_7 => Sys2Proof.Machine.execTypeBT_7 s
  | .typeBT_8 => Sys2Proof.Machine.execTypeBT_8 s
  | .typeA6_4 => Sys2Proof.Machine.execTypeA6_4 s
  | .typeA6_5 => Sys2Proof.Machine.execTypeA6_5 s
  | .typeA6_6 => Sys2Proof.Machine.execTypeA6_6 s
  | .typeA6_7 => Sys2Proof.Machine.execTypeA6_7 s
  | .typeA6_8 => Sys2Proof.Machine.execTypeA6_8 s
  | .typeA6T_4 => Sys2Proof.Machine.execTypeA6T_4 s
  | .typeA6T_5 => Sys2Proof.Machine.execTypeA6T_5 s
  | .typeA6T_6 => Sys2Proof.Machine.execTypeA6T_6 s
  | .typeA6T_7 => Sys2Proof.Machine.execTypeA6T_7 s
  | .typeA6T_8 => Sys2Proof.Machine.execTypeA6T_8 s
  | .typeA_4 => Sys2Proof.Machine.execTypeA_4 s
  | .typeA_5 => Sys2Proof.Machine.execTypeA_5 s
  | .typeA_6 => Sys2Proof.Machine.execTypeA_6 s
  | .typeA_7 => Sys2Proof.Machine.execTypeA_7 s
  | .typeA_8 => Sys2Proof.Machine.execTypeA_8 s
  | .typeAT_4 => Sys2Proof.Machine.execTypeAT_4 s
  | .typeAT_5 => Sys2Proof.Machine.execTypeAT_5 s
  | .typeAT_6 => Sys2Proof.Machine.execTypeAT_6 s
  | .typeAT_7 => Sys2Proof.Machine.execTypeAT_7 s
  | .typeAT_8 => Sys2Proof.Machine.execTypeAT_8 s
  | .aRep => Sys2Proof.Machine.execARep s
  | .aLit v => Sys2Proof.Machine.execALit v s
  | .aDelta d => Sys2Proof.Machine.execADelta d s
  | .aRun n => Sys2Proof.Machine.execARun n s
  | .bRep => Sys2Proof.Machine.execBRep s
  | .bLit v => Sys2Proof.Machine.execBLit v s
  | .bStep => Sys2Proof.Machine.execBStep s
  | .bRev => Sys2Proof.Machine.execBRev s
  | .mRep n v => Sys2Proof.Machine.execMRep n v s
  | .mLit n => Sys2Proof.Machine.execMLit n s
  | .mRsvLit0 => Sys2Proof.Machine.execMRsvLit0 s
  | .mRsvRep0 => Sys2Proof.Machine.execMRsvRep0 s

end Sys2Proof.Machine
end

