-- ==== Sys2Proof/Machine/Step.lean ====
section
/-! DEFINITION. One step: take the next request and run the instruction it presents. -/

namespace Sys2Proof.Machine

/-- One step of the machine (log 2). -/
def step (s : State) : Host.Outcome State Fault Refusal :=
  match fetch s with
  | .run i s' => exec i s'
  | .settled o => o

/-- The state whose next step takes and runs the instruction that `decodeTableWord` reads from a table word (log 4); a word
of no instruction leaves the state as it is. -/
def State.withFetchWord (s : State) (nbits w : Nat) : State :=
  match tableWord s.dp.shr nbits w with
  | some (f, _) => s.place f (tableBytes nbits w)
  | none => s

end Sys2Proof.Machine
end

