-- ==== Sys2Proof/Safety.lean ====
section
/-! DEFINITION. What statements about the engine speak of: the invariant, safe steps, the bits a packer or an unpacker holds,
and the spec's formats written as plain functions of pixels and bytes (pictures, code lists, blobs, mask records),
independent of how the machine produces or consumes them. -/

namespace Sys2Proof.Machine

/-! ## Invariant and safe steps -/

/-- Between operations a packer buffers at most 7 bits and nothing above them (R22). -/
abbrev Packer.ok (p : Packer) : Prop := p.wcnt ≤ 7 ∧ p.wacc.toNat < 2 ^ p.wcnt

/-- An unpacker buffers at most 15 bits and nothing above them (R23); it has pulled at least the bits it buffers, and nothing at
or beyond `REND` (R27, R108). -/
abbrev Unpacker.ok (u : Unpacker) : Prop :=
  u.rcnt ≤ 15 ∧ u.racc.toNat < 2 ^ u.rcnt ∧ u.start ≤ u.rptr ∧ u.rcnt ≤ 8 * (u.rptr - u.start) ∧
    u.rptr ≤ max u.start u.rend

/-- What every step keeps: memory in canonical form, packer and unpacker within their bounds (R22, R23), `RUN` at most 255
(R21), `LITCNT` at most 127 (R26). -/
abbrev State.Inv (s : State) : Prop :=
  s.mem.wf = true ∧ s.bp.ok ∧ s.bu.ok ∧ s.dp.run ≤ 255 ∧ s.mask.litcnt ≤ 127

/-- A safe step: the machine has a next state. -/
abbrev State.StepsSafely (s : State) : Prop := ∃ t, step s = .next t

/-- Instructions run one after the other. -/
def runAll : List Instr → State → Host.Outcome State Fault Refusal
  | [], s => .next s
  | i :: is, s =>
    match exec i s with
    | .next t => runAll is t
    | .fault f => .fault f
    | .refused r => .refused r

/-- An outcome with its next state changed. -/
def mapNext (f : State → State) : Host.Outcome State Fault Refusal → Host.Outcome State Fault Refusal
  | .next t => .next (f t)
  | .fault e => .fault e
  | .refused r => .refused r

/-- The same end of a command: both stop alike, or both go on with the same host-visible registers and memory. -/
def SameResult : Host.Outcome State Fault Refusal → Host.Outcome State Fault Refusal → Prop
  | .next t, .next u => t.regs = u.regs ∧ t.mem = u.mem
  | .fault e, .fault e' => e = e'
  | .refused r, .refused r' => r = r'
  | _, _ => False

/-- The state with another `LOGLEVEL` (R45). -/
def State.withLog (s : State) (v : Byte) : State := s.setRegs { s.regs with loglevel := v }

/-! ## Bits held -/

/-- The `n` bytes from an address. -/
def Memory.bytes (m : Memory) (a n : Nat) : List Byte := (List.range' a n).map m.read

/-- The bits written since `BP.INIT`, in stream order: those of `WOUT`, then the buffered ones (R22, R100). -/
def Packer.bits (p : Packer) : List Bool := streamBits p.wout ++ bitsOf p.wcnt p.wacc.toNat

/-- The bits between the stream cursor and the end of the source, in stream order (R27, R108). -/
def State.pending (s : State) : List Bool :=
  bitsOf s.bu.rcnt s.bu.racc.toNat ++ streamBits (s.mem.bytes s.bu.rptr (s.bu.rend - s.bu.rptr))

/-! ## Pictures and stripes -/

/-- A picture: the byte of row `y`, column `x` (R51). -/
abbrev Picture := Nat → Nat → Byte

/-- The picture at `PIX_BASE`: pixels (R51 (a)), or the bytes of a mask plane (R51 (b)). -/
def State.picture (s : State) : Picture := fun y x =>
  s.mem.read (s.regs.pixBase.toNat + y * s.regs.stride.toNat + x)

/-- The state with `S` set. -/
def State.onStripe (s : State) (st : Nat) : State := s.setSel { s.sel with stripe := st }

/-- A command runs, so that memory is reached (R50). -/
abbrev State.Running (s : State) : Prop := s.regs.status.busy = true

/-- A command runs (R50) and the pixel addresses of a stripe all lie in the space (R62). -/
abbrev State.StripeReachable (s : State) (f : Family) (st : Nat) : Prop :=
  s.Running ∧ ∀ k < s.npix, (s.onStripe st).pixelAddr f k < Config.addrSpace

/-- The pixels of stripe `st` of a picture of `h` rows in a family's visiting order (R125, R128). -/
def stripeOf (p : Picture) (h : Nat) (f : Family) (st : Nat) : List Byte :=
  (List.range (8 * h)).map fun k => p (pixelPos f h k).1 (8 * st + (pixelPos f h k).2)

/-- The column of stripe `st` of a plane of `h` rows, top to bottom (R197). -/
def columnOf (p : Picture) (h st : Nat) : List Byte := (List.range h).map fun y => p y st

/-- The least width of 4 to 8 bits that holds every value of a list (R121). -/
def leastWidth (ps : List Byte) : ShiftWidth :=
  if ps.all fun v => decide (v.toNat < 16) then .w4
  else if ps.all fun v => decide (v.toNat < 32) then .w5
  else if ps.all fun v => decide (v.toNat < 64) then .w6
  else if ps.all fun v => decide (v.toNat < 128) then .w7
  else .w8

/-! ## Stream codes as lists -/

/-- The codes of R130 for the pixels after a first colour; `skip` pixels still belong to the last run. -/
def codesA (escape : Bool) : Nat → Byte → List Byte → List Instr
  | _, _, [] => []
  | skip + 1, c, _ :: ps => codesA escape skip c ps
  | 0, c, p :: ps =>
    if p = c then
      if escape && decide (13 ≤ runLength c (p :: ps)) then
        .aRun (BitVec.ofNat 8 (min (runLength c (p :: ps)) 255)) ::
          codesA escape (min (runLength c (p :: ps)) 255 - 1) c ps
      else .aRep :: codesA escape 0 c ps
    else if -4 ≤ (p - c).toInt ∧ (p - c).toInt ≤ 3 then .aDelta (p - c).toInt :: codesA escape 0 p ps
    else .aLit p :: codesA escape 0 p ps

/-- The codes of R140 for the pixels after a first colour. -/
def codesB : Dir → Byte → List Byte → List Instr
  | _, _, [] => []
  | d, c, p :: ps =>
    if p = c then .bRep :: codesB d c ps
    else if p = c + d.toByte then .bStep :: codesB d p ps
    else if p = c - d.toByte then .bRev :: codesB d.flip p ps
    else .bLit p :: codesB .down p ps

/-- The codes of a family's encoder for the pixels after the first (R130, R131, R140, R141). -/
def codesOf (f : Family) (p0 : Byte) (ps : List Byte) : List Instr :=
  match f with
  | .a => codesA true 0 p0 ps
  | .a6 => codesA false 0 p0 ps
  | .b | .c => codesB .down p0 ps

/-- The bits of a stripe's stream before the pad: the first pixel, then the codes (R79). -/
def streamOf (shr : ShiftWidth) (p0 : Byte) (codes : List Instr) : List Bool :=
  bitsOf 8 p0.toNat ++ codes.flatMap (encodeBits shr)

/-- The bitstream bytes of a family for a stripe's pixels (R79). -/
def bitstreamOf (f : Family) (shr : ShiftWidth) : List Byte → List Byte
  | [] => []
  | p0 :: ps => packBits (streamOf shr p0 (codesOf f p0 ps))

/-- The format of a family's codes. -/
def codeFormat : Family → Format
  | .a | .a6 => .acode
  | .b | .c => .bcode

/-- How many pixels a code produces: `N` for `A.RUN N`, else 1 (R79). -/
def codePixels : Instr → Nat
  | .aRun n => n.toNat
  | _ => 1

/-- The pixels that a list of codes produces. -/
def pixelCount (codes : List Instr) : Nat := (codes.map codePixels).sum

/-- The colour and the direction after a code (R136 to R139, R146 to R149). -/
def nextColor (c : Byte) (d : Dir) : Instr → Byte × Dir
  | .aLit v => (v, d)
  | .aDelta x => (c + BitVec.ofInt 8 x, d)
  | .bLit v => (v, .down)
  | .bStep => (c + d.toByte, d)
  | .bRev => (c + d.flip.toByte, d.flip)
  | _ => (c, d)

/-- The colours of the pixels that a list of codes produces after a first colour. -/
def paint : Byte → Dir → List Instr → List Byte
  | _, _, [] => []
  | c, d, i :: is =>
    List.replicate (codePixels i) (nextColor c d i).1 ++ paint (nextColor c d i).1 (nextColor c d i).2 is

/-- The colour and the direction after a list of codes. -/
def lastColor (c : Byte) (d : Dir) (codes : List Instr) : Byte × Dir :=
  codes.foldl (fun x i => nextColor x.1 x.2 i) (c, d)

/-- The codes produce `n` pixels and the last of them is needed: what a decoder reads for `n` pixels (R79, R135). -/
abbrev Covers (n : Nat) (codes : List Instr) : Prop := n ≤ pixelCount codes ∧ pixelCount codes.dropLast < n

/-! ## What decoding a stripe leaves -/

/-- Memory after colours were put at pixels `k`, `k + 1`, .. of a stripe, in that order (R177). -/
def State.putColors (s : State) (f : Family) (tr : Bool) (st : Nat) : Nat → List Byte → Memory → Memory
  | _, [], m => m
  | k, c :: cs, m =>
    s.putColors f tr st (k + 1) cs
      (if tr && decide (c = s.regs.transpColor) then m
       else m.write ((s.onStripe st).pixelAddr f k) (c + s.regs.palmod))

/-- The state after a stripe's first pixel and some codes were decoded (R132, R133, R142 to R145), but for the Bit Unpacker. -/
def State.afterCodes (s : State) (f : Family) (tr : Bool) (st : Nat) (p0 : Byte) (codes : List Instr)
    (u : Unpacker) : State :=
  { s with
    mem := s.putColors f tr st 0 ((p0 :: paint p0 .down codes).take s.npix) s.mem
    bu := u
    dp := { color := (lastColor p0 .down codes).1
            inc := (lastColor p0 .down codes).2
            shr := s.dp.shr
            k := min s.npix (1 + pixelCount codes)
            run := 0
            fam := f
            tr := tr }
    sel := { s.sel with stripe := st } }

/-- Codes are those of a family under a shift width (R80 to R87). -/
abbrev FamilyCodes (f : Family) (shr : ShiftWidth) (codes : List Instr) : Prop :=
  ∀ i ∈ codes, i.format = codeFormat f ∧ i.wf shr = true

/-- A command runs (R50), a stripe's source and destination are in the space and apart, and the codes are those of the
family. -/
abbrev State.StripeReady (s : State) (f : Family) (st : Nat) (codes : List Instr) : Prop :=
  s.Inv ∧ s.Running ∧ s.regs.height ≠ 0 ∧ s.bu.rend ≤ Config.addrSpace ∧
    (∀ k < s.npix, (s.onStripe st).pixelAddr f k < Config.addrSpace ∧
      ((s.onStripe st).pixelAddr f k < s.bu.rptr ∨ s.bu.rend ≤ (s.onStripe st).pixelAddr f k)) ∧
    FamilyCodes f s.dp.shr codes

/-- The state at the start of a stripe decoder, before its first read (R132, R142): `S`, the selects, `INC` -1, `RUN` 0. -/
def State.beginning (s : State) (f : Family) (tr : Bool) (st : Nat) : State :=
  (s.onStripe st).setDp { s.dp with fam := f, tr := tr, inc := .down, run := 0 }

/-- The stripe encoders by family (R73). -/
def encoderInstr : Family → Dim → Instr
  | .a, st => .encA st
  | .a6, st => .encA6 st
  | .b, st => .encB st
  | .c, st => .encC st

/-- The stripe decoders by family and variant (R73, R175). -/
def decoderInstr : Family → Bool → Dim → Instr
  | .a, false, st => .decA st
  | .a, true, st => .decAT st
  | .a6, false, st => .decA6 st
  | .a6, true, st => .decA6T st
  | .b, false, st => .decB st
  | .b, true, st => .decBT st
  | .c, false, st => .decC st
  | .c, true, st => .decCT st

/-- What a recognised type byte sets before the decoder runs (R170, R173, R176). -/
def State.dispatched (s : State) (tcap : Bool) (shr : ShiftWidth) : State :=
  { s with
    sel := { s.sel with hasTransp := s.sel.hasTransp || tcap }
    bu := { s.bu with
      racc := 0
      rcnt := 0
      rptr := s.regs.blobBase.toNat + s.sel.ofs + 1
      rend := s.blobEnd
      start := s.regs.blobBase.toNat + s.sel.ofs + 1 }
    dp := { s.dp with shr := shr } }

/-- The place of the next pixel (R51, R177). -/
def State.nextAddr (s : State) : Nat := s.pixelAddr s.dp.fam s.dp.k

/-- Whether `PUT` leaves a colour out (R177). -/
abbrev State.Skips (s : State) (c : Byte) : Prop := s.dp.tr = true ∧ c = s.regs.transpColor

/-- The outcome of a one-pixel code with datapath `d` before its `PUT`: `K` moves on, one byte is written unless the colour is
skipped, everything else is as it was (R136 to R138, R146 to R149). -/
def State.Produces (s : State) (d : Datapath) (o : Host.Outcome State Fault Refusal) : Prop :=
  ∃ m, o = .next ((s.setDp { d with k := d.k + 1 }).setMem m) ∧
    ∀ a, m.read a = if a = s.nextAddr ∧ ¬ s.Skips d.color then d.color + s.regs.palmod else s.mem.read a

/-! ## Image blobs -/

/-- The length in bytes of a family's stream for a stripe of a picture. -/
def streamLen (p : Picture) (h st : Nat) (f : Family) : Nat :=
  (bitstreamOf f (leastWidth (stripeOf p h .a st).tail) (stripeOf p h f st)).length

/-- The first family of `SEL_ORDER` whose stream is shortest (R152). -/
def bestFamily (p : Picture) (h st : Nat) : Family :=
  (Config.selOrder.find? fun f => Config.selOrder.all fun g =>
    decide (streamLen p h st f ≤ streamLen p h st g)).getD .a

/-- The selector's result for a stripe of a picture (R152). -/
def bestOf (p : Picture) (h st : Nat) : Best :=
  { stripe := st
    fam := bestFamily p h st
    shr := leastWidth (stripeOf p h .a st).tail
    stream := bitstreamOf (bestFamily p h st) (leastWidth (stripeOf p h .a st).tail)
      (stripeOf p h (bestFamily p h st) st) }

/-- A stripe's record: type byte (R155) and bitstream (R75). -/
def imageRecord (en : Bool) (p : Picture) (h st : Nat) : List Byte :=
  typeByte (bestOf p h st).fam en (bestOf p h st).shr :: (bestOf p h st).stream

/-- The offset of stripe `st`'s record in the blob of `n` stripes (R76). -/
def imageOffset (en : Bool) (p : Picture) (h n st : Nat) : Nat :=
  4 * n + Config.smapOfsBias + ((List.range st).map fun j => (imageRecord en p h j).length).sum

/-- The image blob of `n` stripes (R76). -/
def imageBlob (en : Bool) (p : Picture) (h n : Nat) : List Byte :=
  ((List.range n).flatMap fun st => bytesLE 4 (imageOffset en p h n st)) ++
    (List.range n).flatMap (imageRecord en p h)

/-! ## Mask records and blobs -/

/-- A run of a mask record (R90, R91). -/
inductive MaskRun where
  | rep (n : Nat) (v : Byte)
  | lit (bs : List Byte)
  deriving DecidableEq, Repr

/-- The rows that a run fills. -/
def MaskRun.rows : MaskRun → List Byte
  | .rep n v => List.replicate n v
  | .lit bs => bs

/-- The count of a run is in 1..127 (R90, R91). -/
abbrev MaskRun.wf (r : MaskRun) : Prop := 1 ≤ r.rows.length ∧ r.rows.length ≤ 127

/-- The bytes of a run of which at most `left` rows are wanted: a literal's payload is read no further (R193). -/
def MaskRun.bytes (left : Nat) : MaskRun → List Byte
  | .rep n v => [0x80 ||| BitVec.ofNat 8 n, v]
  | .lit bs => BitVec.ofNat 8 bs.length :: bs.take left

/-- The bytes read for the first `left` rows of a record (R192, R193). -/
def runBytes : Nat → List MaskRun → List Byte
  | _, [] => []
  | 0, _ => []
  | n + 1, r :: rs => r.bytes (n + 1) ++ runBytes (n + 1 - r.rows.length) rs

/-- A literal run, or nothing when it would be empty (R190, `flush_lit`). -/
def literalRun (bs : List Byte) : List MaskRun := if bs = [] then [] else [.lit bs]

/-- The runs of R190 for a column; `lit` is the pending literal run and `skip` rows still belong to the last repeat run. -/
def maskRuns : List Byte → Nat → List Byte → List MaskRun
  | lit, _, [] => literalRun lit
  | lit, skip + 1, _ :: vs => maskRuns lit skip vs
  | lit, 0, v :: vs =>
    if 2 < runLength v (v :: vs) then
      literalRun lit ++ .rep (min (runLength v (v :: vs)) 127) v ::
        maskRuns [] (min (runLength v (v :: vs)) 127 - 1) vs
    else if lit.length + 1 = 127 then .lit (lit ++ [v]) :: maskRuns [] 0 vs
    else maskRuns (lit ++ [v]) 0 vs

/-- The record of a column (R190). -/
def maskRecord (col : List Byte) : List Byte := runBytes col.length (maskRuns [] 0 col)

/-- The record of stripe `st` in a blob: none for a column of zeros (R194). -/
def maskRecordOf (p : Picture) (h st : Nat) : List Byte :=
  if (columnOf p h st).all fun b => decide (b = 0) then [] else maskRecord (columnOf p h st)

/-- Where the record of stripe `st` would start in the blob of `n` stripes (R78). -/
def maskOffset (p : Picture) (h n st : Nat) : Nat :=
  2 * n + ((List.range st).map fun j => (maskRecordOf p h j).length).sum

/-- The offset entry of stripe `st`: 0 for a column of zeros (R78, R194). -/
def maskEntry (p : Picture) (h n st : Nat) : Nat :=
  if (columnOf p h st).all fun b => decide (b = 0) then 0 else maskOffset p h n st

/-- The mask blob of `n` stripes (R78). -/
def maskBlob (p : Picture) (h n : Nat) : List Byte :=
  ((List.range n).flatMap fun st => bytesLE 2 (maskEntry p h n st)) ++ (List.range n).flatMap (maskRecordOf p h)

/-- The address of row `y` of the column of stripe `st` (R51 (b)). -/
def State.rowAddr (s : State) (st y : Nat) : Nat := (s.onStripe st).columnAddr y

/-- Memory after values were written to rows `y`, `y + 1`, .. of a column, overwriting or OR-ing (R192). -/
def State.putRows (s : State) (st : Nat) : Nat → List Byte → Memory → Memory
  | _, [], m => m
  | y, v :: vs, m =>
    s.putRows st (y + 1) vs
      (m.write (s.rowAddr st y) (if s.regs.modeOr then m.read (s.rowAddr st y) ||| v else v))

/-! ## Commands -/

/-- The four commands (R70). -/
abbrev IsCommand (i : Instr) : Prop := i = .encImage ∨ i = .decImage ∨ i = .encMask ∨ i = .decMask

/-- The bytes of a row that a command reaches: `WIDTH` pixels or `WIDTH / 8` plane bytes (R51). -/
def State.rowLen (s : State) : Instr → Nat
  | .encMask | .decMask => s.stripes
  | _ => s.regs.width.toNat

/-- No command runs and the precondition of R213 holds. -/
abbrev State.Startable (s : State) : Prop :=
  s.regs.status.busy = false ∧ s.regs.width.toNat % 8 = 0 ∧ s.regs.height ≠ 0

/-- The launch premises for a command: addresses in the space (R62), regions apart (R61). -/
abbrev State.Launchable (s : State) (i : Instr) : Prop :=
  s.addressesFit (s.rowLen i) = true ∧ s.regionsDisjoint (s.rowLen i) = true

/-- The address of row `y`, column `x` of the buffer at `PIX_BASE` (R51). -/
def State.cellAddr (s : State) (y x : Nat) : Nat := s.regs.pixBase.toNat + y * s.regs.stride.toNat + x

/-- The result registers after a command (R212, R218); every argument register and `LOGLEVEL` keep their values. -/
def Regs.finished (r : Regs) (e : Err) (hasTransp : Bool) (warnCnt : Dim) (info : Dim) (len : Nat) :
    Regs :=
  { r with
    status := { busy := false, done := true, err := e, hasTransp := hasTransp, warn := decide (warnCnt ≠ 0) }
    warnCnt := warnCnt
    errInfo := info
    outLen := BitVec.ofNat Config.aw len }

/-- Reads that return the low bits of each of a list of writes, in order (R110): the instruction `BU.READ_NBITS n` for each
write of `n` bits, with nothing of the host's registers, the memory or the other units changed. -/
def readsBack : List (Byte × BitVec 4) → State → State → Prop
  | [], s, t => t = s
  | (v, n) :: ws, s, t =>
    ∃ u, exec (.buReadNbits n) s = .next (s.setBu u) ∧ u.result.toNat = v.toNat % 2 ^ n.toNat ∧
      readsBack ws (s.setBu u) t

/-- The bits of a list of writes: the low `n` bits of each value (R103). -/
def writtenBits (ws : List (Byte × BitVec 4)) : List Bool := ws.flatMap fun w => bitsOf w.2.toNat w.1.toNat

/-- The offset entry of stripe `S` in an image blob (R76, R52). -/
def State.tableEntry (s : State) : Nat :=
  (s.mem.read (s.regs.blobBase.toNat + 4 * s.sel.stripe)).toNat +
    256 * (s.mem.read (s.regs.blobBase.toNat + 4 * s.sel.stripe + 1)).toNat +
    65536 * (s.mem.read (s.regs.blobBase.toNat + 4 * s.sel.stripe + 2)).toNat +
    16777216 * (s.mem.read (s.regs.blobBase.toNat + 4 * s.sel.stripe + 3)).toNat

/-- The state with the offset entry in use (R170). -/
def State.withEntry (s : State) (e : Nat) : State := s.setSel { s.sel with ofs := e }

/-! ## What a decode command finds in a blob, stripe by stripe

Any blob, made by an encoder or not: offset entries in any order (R172), stripes to skip (R174), and the place where a decode
ends early (R178, R193, R222). -/

/-- What `DEC_IMAGE` finds for a stripe that does not end it. -/
inductive StripeFound where
  /-- An unrecognised type byte (R174). -/
  | skipped
  /-- A type byte, a first pixel and codes that cover the stripe (R170, R79). -/
  | record (f : Family) (tcap : Bool) (shr : ShiftWidth) (p0 : Byte) (codes : List Instr)
  deriving DecidableEq, Repr

/-- Where and how `DEC_IMAGE` ends early at a stripe (R171, R214, R217). -/
inductive StripeStop where
  /-- The offset entry is not wholly in the blob, or does not point into it. -/
  | noType
  /-- Fewer than 8 bits follow the type byte. -/
  | noFirst (f : Family) (tcap : Bool) (shr : ShiftWidth)
  /-- The blob ends within the code after these. -/
  | cutCode (f : Family) (tcap : Bool) (shr : ShiftWidth) (p0 : Byte) (codes : List Instr)
  /-- The code after these is an `A.RUN` with `N` = 0. -/
  | zeroRun (f : Family) (tcap : Bool) (shr : ShiftWidth) (p0 : Byte) (codes : List Instr)
  deriving DecidableEq, Repr

/-- Whether a stripe was skipped with a warning (R174). -/
def StripeFound.skips : StripeFound → Bool
  | .skipped => true
  | .record _ _ _ _ _ => false

/-- Whether a stripe counts towards `HAS_TRANSP` (R176). -/
def StripeFound.capable : StripeFound → Bool
  | .skipped => false
  | .record _ tcap _ _ _ => tcap

/-- Whether the stripe that ends the decode counts towards `HAS_TRANSP`: it was dispatched, to a capable family (R176). -/
def StripeStop.capable : StripeStop → Bool
  | .noType => false
  | .noFirst _ tcap _ | .cutCode _ tcap _ _ _ | .zeroRun _ tcap _ _ _ => tcap

/-- The error that ends the decode (R214, R217). -/
def StripeStop.err : StripeStop → Err
  | .zeroRun _ _ _ _ _ => .format
  | .noType | .noFirst _ _ _ | .cutCode _ _ _ _ _ => .trunc

/-- The offset entry of stripe `st` lies in the blob and points into it (R171). -/
abbrev State.HasType (s : State) (st : Nat) : Prop :=
  4 * st + 4 ≤ s.regs.blobSize.toNat ∧ (s.onStripe st).tableEntry < s.regs.blobSize.toNat

/-- The type byte of stripe `st`, at the offset its entry gives (R172). -/
def State.typeOf (s : State) (st : Nat) : Byte := s.mem.read (s.regs.blobBase.toNat + (s.onStripe st).tableEntry)

/-- The bits after the type byte of stripe `st`, to the end of the blob (R173). -/
def State.bitsAfterType (s : State) (st : Nat) : List Bool :=
  streamBits (s.mem.bytes (s.regs.blobBase.toNat + (s.onStripe st).tableEntry + 1)
    (s.blobEnd - (s.regs.blobBase.toNat + (s.onStripe st).tableEntry + 1)))

/-- The blob holds this for stripe `st`. -/
def State.Finds (s : State) (st : Nat) : StripeFound → Prop
  | .skipped => s.HasType st ∧ decodeType (s.typeOf st) = none
  | .record f tcap shr p0 codes =>
    s.HasType st ∧ s.typeOf st = typeByte f tcap shr ∧ FamilyCodes f shr codes ∧ Covers (s.npix - 1) codes ∧
      streamOf shr p0 codes <+: s.bitsAfterType st

/-- The blob ends a decode so at stripe `st`. -/
def State.StopsAt (s : State) (st : Nat) : StripeStop → Prop
  | .noType => ¬ s.HasType st
  | .noFirst f tcap shr => s.HasType st ∧ s.typeOf st = typeByte f tcap shr ∧ (s.bitsAfterType st).length < 8
  | .cutCode f tcap shr p0 codes =>
    s.HasType st ∧ s.typeOf st = typeByte f tcap shr ∧ FamilyCodes f shr codes ∧ pixelCount codes < s.npix - 1 ∧
      ∃ more, s.bitsAfterType st = streamOf shr p0 codes ++ more ∧
        decodeBits (codeFormat f) shr more = .error .truncated
  | .zeroRun f tcap shr p0 codes =>
    s.HasType st ∧ s.typeOf st = typeByte f tcap shr ∧ FamilyCodes f shr codes ∧ pixelCount codes < s.npix - 1 ∧
      codeFormat f = .acode ∧ streamOf shr p0 codes ++ encodeBits shr (.aRun 0) <+: s.bitsAfterType st

/-- Memory after the pixels of a first pixel and codes were put in stripe `st` (R175, R177). -/
def State.putStripe (s : State) (st : Nat) (f : Family) (tcap : Bool) (p0 : Byte) (codes : List Instr)
    (m : Memory) : Memory :=
  s.putColors f (tcap && s.regs.transpEn) st 0 ((p0 :: paint p0 .down codes).take s.npix) m

/-- Memory after a stripe that does not end the decode: a skipped one is left as it was (R174). -/
def State.putFound (s : State) (st : Nat) (m : Memory) : StripeFound → Memory
  | .skipped => m
  | .record f tcap _ p0 codes => s.putStripe st f tcap p0 codes m

/-- Memory after stripes `st`, `st + 1`, .. -/
def State.putStripes (s : State) : Nat → List StripeFound → Memory → Memory
  | _, [], m => m
  | st, x :: xs, m => s.putStripes (st + 1) xs (s.putFound st m x)

/-- Memory after the stripe that ends the decode: the pixels before the failing read stay written (R178). -/
def State.putStopped (s : State) (st : Nat) (m : Memory) : StripeStop → Memory
  | .noType | .noFirst _ _ _ => m
  | .cutCode f tcap _ p0 codes | .zeroRun f tcap _ p0 codes => s.putStripe st f tcap p0 codes m

/-- A record at an address holds runs that fill the column, in the bytes that its rows need (R192, R193). -/
abbrev State.HoldsRuns (s : State) (a : Nat) (runs : List MaskRun) : Prop :=
  (∀ r ∈ runs, r.wf) ∧ s.regs.height.toNat ≤ (runs.flatMap MaskRun.rows).length ∧
    a + (runBytes s.regs.height.toNat runs).length ≤ s.blobEnd ∧
    s.mem.bytes a (runBytes s.regs.height.toNat runs).length = runBytes s.regs.height.toNat runs

/-- How a mask record ends a decode early, after some whole runs (R192, R193, R222). -/
inductive ColumnStop where
  /-- No byte is left for a header. -/
  | noHeader
  /-- A repeat header of count `n` is the blob's last byte. -/
  | noValue (n : BitVec 7)
  /-- A literal run of count `n` of which the blob holds only these payload bytes. -/
  | shortLiteral (n : BitVec 7) (bs : List Byte)
  /-- A header 0x00 or 0x80. -/
  | zeroCount (rep : Bool)
  deriving DecidableEq, Repr

/-- The error that ends the decode (R193, R214, R217). -/
def ColumnStop.err : ColumnStop → Err
  | .zeroCount _ => .format
  | .noHeader | .noValue _ | .shortLiteral _ _ => .trunc

/-- The bytes read after the whole runs. -/
def ColumnStop.bytes : ColumnStop → List Byte
  | .noHeader => []
  | .noValue n => [0x80 ||| n.setWidth 8]
  | .shortLiteral n bs => n.setWidth 8 :: bs
  | .zeroCount rep => [if rep then 0x80 else 0x00]

/-- The rows filled after those of the whole runs. -/
def ColumnStop.rows : ColumnStop → List Byte
  | .shortLiteral _ bs => bs
  | .noHeader | .noValue _ | .zeroCount _ => []

/-- What a stop is, with `left` rows still to fill and `rest` blob bytes after those read. -/
def ColumnStop.wf (left rest : Nat) : ColumnStop → Bool
  | .noHeader => decide (rest = 0)
  | .noValue n => decide (n ≠ 0 ∧ rest = 0)
  | .shortLiteral n bs => decide (bs.length < min n.toNat left ∧ rest = 0)
  | .zeroCount _ => true

/-- The bytes of whole runs, then those of a stop. -/
def stopBytes (runs : List MaskRun) (x : ColumnStop) : List Byte :=
  runs.flatMap (fun r => r.bytes r.rows.length) ++ x.bytes

/-- The rows of whole runs, then those of a stop. -/
def stopRows (runs : List MaskRun) (x : ColumnStop) : List Byte := runs.flatMap MaskRun.rows ++ x.rows

/-- A record at an address holds whole runs that do not fill the column, then ends the decode so. A record that starts at or
beyond the end of the blob has no header. -/
abbrev State.RunsStop (s : State) (a : Nat) (runs : List MaskRun) (x : ColumnStop) : Prop :=
  (∀ r ∈ runs, r.wf) ∧ (runs.flatMap MaskRun.rows).length < s.regs.height.toNat ∧
    (a + (stopBytes runs x).length ≤ s.blobEnd ∨ stopBytes runs x = []) ∧
    s.mem.bytes a (stopBytes runs x).length = stopBytes runs x ∧
    x.wf (s.regs.height.toNat - (runs.flatMap MaskRun.rows).length) (s.blobEnd - (a + (stopBytes runs x).length)) = true

/-- The offset entry of stripe `st` in a mask blob (R78, R52). -/
def State.maskEntryOf (s : State) (st : Nat) : Nat :=
  (s.mem.read (s.regs.blobBase.toNat + 2 * st)).toNat + 256 * (s.mem.read (s.regs.blobBase.toNat + 2 * st + 1)).toNat

/-- The mask blob holds this for stripe `st`: no record, or the runs of one (R196). -/
def State.FindsColumn (s : State) (st : Nat) : Option (List MaskRun) → Prop
  | none => 2 * st + 2 ≤ s.regs.blobSize.toNat ∧ s.maskEntryOf st = 0
  | some runs =>
    2 * st + 2 ≤ s.regs.blobSize.toNat ∧ s.maskEntryOf st ≠ 0 ∧
      s.HoldsRuns (s.regs.blobBase.toNat + s.maskEntryOf st) runs

/-- Memory after the column of stripe `st`: an absent one is zero-filled, or left as it was in OR mode (R196, R250). -/
def State.putColumn (s : State) (st : Nat) (m : Memory) : Option (List MaskRun) → Memory
  | none => if s.regs.modeOr then m else s.putRows st 0 (List.replicate s.regs.height.toNat 0) m
  | some runs => s.putRows st 0 ((runs.flatMap MaskRun.rows).take s.regs.height.toNat) m

/-- Memory after the columns of stripes `st`, `st + 1`, .. -/
def State.putColumns (s : State) : Nat → List (Option (List MaskRun)) → Memory → Memory
  | _, [], m => m
  | st, x :: xs, m => s.putColumns (st + 1) xs (s.putColumn st m x)

end Sys2Proof.Machine
end

