-- ==== Sys2Proof/Certificates/Slice0/Obligations.lean ====
section
/-! DEFINITION. The statements for the provers: what the rules of spec/ say of the engine, about every state that meets
the hypotheses, in terms of `exec` and `step`. -/

section

open Sys2Proof Sys2Proof.Machine

/-! ## Encodings (30_encoding.md) -/

/-- R70 to R74, R80 to R87, R90 to R92: the bytes of every well-formed instruction decode to it, in its own format, under the
shift width it was encoded with. The layout of operand lines after a select is the model's choice (log 3). -/
def Obligations.DecodeOfEncode : Prop :=
  ∀ (shr : ShiftWidth) (i : Instr), i.wf shr = true → decode i.format shr (encode shr i) = .ok i

/-- R79, R88: an instruction's bits are cut off exactly, whatever bits follow. The layout of operand lines after a select is
the model's choice (log 3). -/
def Obligations.DecodeCutsInstruction : Prop :=
  ∀ (shr : ShiftWidth) (i : Instr) (more : List Bool), i.wf shr = true →
    decodeBits i.format shr (encodeBits shr i ++ more) = .ok (i, more)

/-- R88: every bit string long enough for the longest code starts with exactly one stream code of each format, and the
code's bits and the rest are the string. -/
def Obligations.StreamCodesCoverBitStrings : Prop :=
  ∀ (shr : ShiftWidth) (f : Format) (bits : List Bool), f = .acode ∨ f = .bcode → 13 ≤ bits.length →
    (∃ i more, decodeBits f shr bits = .ok (i, more) ∧ i.format = f ∧ bits = encodeBits shr i ++ more) ∧
    ∀ i j more more', i.format = f → j.format = f → i.wf shr = true → j.wf shr = true →
      bits = encodeBits shr i ++ more → bits = encodeBits shr j ++ more' → i = j

/-- R74: a byte is recognised exactly when it is `family_base + shr` of the table, and then it names that family, capability
and width; the forty values are those of the rule. -/
def Obligations.TypeByteTable : Prop :=
  (∀ (b : Byte) (f : Family) (tcap : Bool) (shr : ShiftWidth),
    decodeType b = some (f, tcap, shr) ↔ b = typeByte f tcap shr) ∧
  ∀ b : Byte, (decodeType b).isSome = true ↔ b.toNat ∈
    [14, 15, 16, 17, 18, 24, 25, 26, 27, 28, 34, 35, 36, 37, 38, 44, 45, 46, 47, 48, 64, 65, 66, 67, 68,
      84, 85, 86, 87, 88, 104, 105, 106, 107, 108, 124, 125, 126, 127, 128]

/-- Words written out bit by bit from R70 to R73, R74, R80 to R87, R90 to R92 decode to the instructions they stand for (the
layout of operand lines after a select is the model's choice, log 3). -/
def Obligations.WordsDecode : Prop :=
  decode .cmd .w4 [0x03] = .ok .encMask ∧
  decode .bpop .w4 [0x02, 0xAB, 0x08] = .ok (.bpWriteNbits 0xAB 8) ∧
  decode .buop .w4 [0x03, 0x05] = .ok (.buReadNbits 5) ∧
  decode .uop .w4 [0x16, 0x02, 0x01] = .ok (.decBT 0x0102) ∧
  decode .type .w4 [0x7C] = .ok .typeAT_4 ∧
  decode .acode .w4 [0x3D] = .ok (.aLit 15) ∧
  decode .acode .w4 [0x03] = .ok (.aDelta (-4)) ∧
  decode .acode .w4 [0x73, 0x00] = .ok (.aRun 3) ∧
  decode .bcode .w8 [0x25, 0x00] = .ok (.bLit 9) ∧
  decode .bcode .w4 [0x07] = .ok .bRev ∧
  decode .mrun .w4 [0x83, 0x09] = .ok (.mRep 3 9) ∧
  decode .mrun .w4 [0x80] = .ok .mRsvRep0

/-! ## A step runs the decoded instruction -/

/-- Log 2, R31, R70 to R73: a `CMD` write or a select with its operand lines at the head of the requests is run as the
instruction it decodes to, in the state with that request taken and nothing else changed. Which lines a select takes is the
model's choice (log 3). -/
def Obligations.StepRunsSelected : Prop :=
  ∀ (s : State) (rest : List Request) (i : Instr),
    (∀ lines, s.bus = .bpop lines :: rest → decode .bpop s.dp.shr lines = .ok i →
      step s = exec i (s.setBus rest)) ∧
    (∀ lines, s.bus = .buop lines :: rest → decode .buop s.dp.shr lines = .ok i →
      step s = exec i (s.setBus rest)) ∧
    (∀ lines, s.bus = .uop lines :: rest → decode .uop s.dp.shr lines = .ok i →
      step s = exec i (s.setBus rest)) ∧
    (∀ v : Word, s.bus = .regWrite 0 v :: rest → decode .cmd s.dp.shr [v.setWidth 8] = .ok i →
      step s = exec i (s.setBus rest))

/-- Log 2, R27, R88, R132, R142: a request for the next stream code runs the code that the bits at the stream cursor spell,
with only the Bit Unpacker moved past it (a command runs, R50); when the bits run out within the code the step completes with
`ERR_TRUNC`. That a request made with no pixel left (`K` at or above `NPIX`), where R79, R132 and R142 let a decoder read no
bit, reads its bits and can end in `ERR_TRUNC` all the same is the model's choice (log 12). So is a request with the unpacker,
`SHR` and the datapath as anything but a decoder left them (log 31). -/
def Obligations.StepRunsStreamCode : Prop :=
  ∀ (s : State) (rest : List Request) (f : Format),
    (f = .acode ∧ s.bus = .nextACode :: rest ∨ f = .bcode ∧ s.bus = .nextBCode :: rest) →
    s.Inv → s.Running → s.bu.rend ≤ Config.addrSpace →
    (∀ i more, decodeBits f s.dp.shr s.pending = .ok (i, more) →
      ∃ u, step s = exec i ((s.setBus rest).setBu u) ∧ (s.setBu u).pending = more ∧ u.ok ∧
        u.start = s.bu.start ∧ u.rend = s.bu.rend ∧
        u.cursor + more.length = s.bu.cursor + s.pending.length) ∧
    (decodeBits f s.dp.shr s.pending = .error .truncated →
      ∃ u, step s = .next (raiseError .trunc ((s.setBus rest).setBu u)))

/-- Log 2, R192: a request for the next mask run runs the run that the bytes at `MPTR` spell, with only `MPTR` moved past its
header (and value byte); with `MPTR` at or beyond the end of the blob the step completes with `ERR_TRUNC`, and so it does,
with `MPTR` past the header, when a repeat header is the blob's last byte and its value byte is missing (R193, R222). That
this holds with no row left too is the model's choice (log 28). So is a run with `MPTR` below the blob (log 28). -/
def Obligations.StepRunsMaskRun : Prop :=
  ∀ (s : State) (rest : List Request), s.bus = .nextRun :: rest → s.Running → s.blobEnd ≤ Config.addrSpace →
    (∀ i, decode .mrun s.dp.shr (s.mem.bytes s.mask.mptr (s.blobEnd - s.mask.mptr)) = .ok i →
      step s = exec i ((s.setBus rest).setMask
        { s.mask with mptr := s.mask.mptr + (encode s.dp.shr i).length })) ∧
    (s.blobEnd ≤ s.mask.mptr → step s = .next (raiseError .trunc (s.setBus rest))) ∧
    (∀ n : BitVec 7, n ≠ 0 → s.mask.mptr + 1 = s.blobEnd → s.mem.read s.mask.mptr = 0x80 ||| n.setWidth 8 →
      step s = .next (raiseError .trunc ((s.setBus rest).setMask { s.mask with mptr := s.mask.mptr + 1 })))

/-- Log 2, R170, R171, R174: a request for the next type byte reads the stripe's offset entry, then runs the instruction of
the type byte it points at with the entry kept; an unrecognised byte counts a warning and does nothing else; an entry or a
type byte that is not inside the blob completes with `ERR_TRUNC`. That a type byte requested on its own is that of the stripe
in `S`, and what it leaves there, is the model's choice (logs 24 and 26). -/
def Obligations.StepRunsTypeByte : Prop :=
  ∀ (s : State) (rest : List Request), s.bus = .nextType :: rest → s.Running → s.blobEnd ≤ Config.addrSpace →
    (s.regs.blobSize.toNat < 4 * s.sel.stripe + 4 → step s = .next (raiseError .trunc (s.setBus rest))) ∧
    (4 * s.sel.stripe + 4 ≤ s.regs.blobSize.toNat → s.regs.blobSize.toNat ≤ s.tableEntry →
      step s = .next (raiseError .trunc ((s.setBus rest).withEntry s.tableEntry))) ∧
    (4 * s.sel.stripe + 4 ≤ s.regs.blobSize.toNat → s.tableEntry < s.regs.blobSize.toNat →
      (∀ f tcap shr, s.mem.read (s.regs.blobBase.toNat + s.tableEntry) = typeByte f tcap shr →
        step s = exec (typeInstr f tcap shr) ((s.setBus rest).withEntry s.tableEntry)) ∧
      (decodeType (s.mem.read (s.regs.blobBase.toNat + s.tableEntry)) = none →
        step s = .next (((s.setBus rest).withEntry s.tableEntry).setRegs
          { s.regs with warnCnt := s.regs.warnCnt + 1 })))

/-- R224, R229: with no request the engine is idle. R50: while no command runs, no operation, type byte or code that goes on
has changed memory (log 11). Logs 21 and 22, U12, U14: a register access that is not an aligned word, and a select or operand
lines that decode to nothing, are refused by name. -/
def Obligations.IdleAndRefusedRequests : Prop :=
  ∀ (s : State) (rest : List Request) (off v : Word) (lines : List Byte) (e : DecodeError),
    (s.bus = [] → step s = .next s) ∧
    (∀ i t, ¬ IsCommand i → ¬ s.Running → exec i s = .next t → t.mem = s.mem) ∧
    (off.toNat % 4 ≠ 0 → s.bus = .regWrite off v :: rest ∨ s.bus = .regRead off :: rest →
      step s = .refused .registerAccess) ∧
    (s.bus = .bpop lines :: rest ∧ decode .bpop s.dp.shr lines = .error e ∨
      s.bus = .buop lines :: rest ∧ decode .buop s.dp.shr lines = .error e ∨
      s.bus = .uop lines :: rest ∧ decode .uop s.dp.shr lines = .error e →
      step s = .refused .neverDriven)

/-! ## The register window (10_state.md) -/

/-- R30, R33 to R42, R45, R46: at any time a read at the offset of a read/write register gives what that register holds
(which offset is which register: the first list, the table of R30); with no command running, a register that was written
reads back the bits it has (the second list), and no other register of the window changes. -/
def Obligations.RegisterWriteReadsBack : Prop :=
  (∀ (s : State) (off : Word) (held : Nat),
    (off, held) ∈ [((0x08 : Word), s.regs.pixBase.toNat), (0x0C, s.regs.stride.toNat), (0x10, s.regs.width.toNat),
      (0x14, s.regs.height.toNat), (0x18, s.regs.transpColor.toNat + 256 * s.regs.transpEn.toNat),
      (0x1C, s.regs.palmod.toNat), (0x20, s.regs.blobBase.toNat), (0x24, s.regs.blobSize.toNat),
      (0x2C, s.regs.modeOr.toNat), (0x38, s.regs.loglevel.toNat)] →
    step (s.setBus [.regRead off]) = .next ((s.setBus []).setRdata (BitVec.ofNat 32 held))) ∧
  ∀ (s : State) (off v bits : Word), s.regs.status.busy = false →
    (off, bits) ∈ [(0x08, 0xFFFFFFFF), (0x0C, 0xFFFFFFFF), (0x10, 0xFFFF), (0x14, 0xFFFF), (0x18, 0x1FF),
      (0x1C, 0xFF), (0x20, 0xFFFFFFFF), (0x24, 0xFFFFFFFF), (0x2C, 1), (0x38, 0xFF)] →
    ∃ t, step (s.setBus [.regWrite off v, .regRead off]) = .next (t.setBus [.regRead off]) ∧
      step (t.setBus [.regRead off]) = .next ((t.setBus []).setRdata (v &&& bits)) ∧
      (∀ off', off' ≠ off → readRegister t off' = readRegister s off') ∧
      t = s.setRegs t.regs

/-- R31, R47: while `BUSY` is 1 a write to `CMD` or to any register other than `LOGLEVEL` changes nothing, and `LOGLEVEL` takes
the low 8 bits; so a command presented while another runs is ignored. -/
def Obligations.BusyWritesIgnored : Prop :=
  ∀ (s : State) (off v : Word), s.regs.status.busy = true →
    (off.toNat % 4 = 0 → step (s.setBus [.regWrite off v]) =
      .next (if off = 0x38 then (s.withLog (v.setWidth 8)).setBus [] else s.setBus [])) ∧
    ∀ i, IsCommand i → exec i s = .next s

/-- R30 to R32, R41, R43, R44, R46: writes to the read-only registers and to offsets of 0x3C and above are ignored; `CMD` and
the offsets of 0x3C and above read 0; and the read-only registers read what they hold: `STATUS` (offset 0x04) its flags and
error code at their bits, `OUT_LEN` (0x28), `ERR_INFO` (0x30) and `WARN_CNT` (0x34). That every aligned offset of 0x3C and
above counts as within the window is log 21 (DEDUCED). -/
def Obligations.ReservedAndReadOnlyOffsets : Prop :=
  ∀ (s : State) (off v : Word), off.toNat % 4 = 0 →
    (off ∈ [0x04, 0x28, 0x30, 0x34] ∨ 0x3C ≤ off.toNat →
      step (s.setBus [.regWrite off v]) = .next (s.setBus [])) ∧
    (off = 0 ∨ 0x3C ≤ off.toNat → step (s.setBus [.regRead off]) = .next ((s.setBus []).setRdata 0)) ∧
    ∀ held : Nat,
      (off, held) ∈ [((0x04 : Word), s.regs.status.busy.toNat + 2 * s.regs.status.done.toNat +
          16 * s.regs.status.err.code.toNat + 256 * s.regs.status.hasTransp.toNat + 512 * s.regs.status.warn.toNat),
        (0x28, s.regs.outLen.toNat), (0x30, s.regs.errInfo.toNat), (0x34, s.regs.warnCnt.toNat)] →
      step (s.setBus [.regRead off]) = .next ((s.setBus []).setRdata (BitVec.ofNat 32 held))

/-- R219: a `CMD` write of an opcode other than 0x01 to 0x04 while no command runs completes at once with `ERR_CMD`; the other
status fields, `OUT_LEN`, `ERR_INFO` and `WARN_CNT` are 0, and no memory changes. The running `HAS_TRANSP` that is cleared
with `STATUS` is the model's field (log 17). -/
def Obligations.IllegalOpcodeCompletes : Prop :=
  ∀ (s : State) (v : Word), s.regs.status.busy = false → v.toNat % 256 ∉ [1, 2, 3, 4] →
    step (s.setBus [.regWrite 0 v]) =
      .next { s with
        bus := []
        regs := s.regs.finished .cmd false 0 0 0
        sel := { s.sel with hasTransp := false } }

/-- R240: after reset every register of the window reads 0, and no command runs or has completed. -/
def Obligations.ResetRegistersReadZero : Prop :=
  (∀ off : Word, readRegister State.reset off = 0) ∧ State.reset.regs.status.busy = false ∧
    State.reset.regs.status.done = false

/-- R32, R211, R216: a read at offset 0x04 after a completion gives a word that shows the code of each error in bits 7:4,
`BUSY` 0 and `DONE` 1 in bits 1:0, `HAS_TRANSP` in bit 8, `WARN` in bit 9, and 0 elsewhere. -/
def Obligations.ErrorCodesInStatus : Prop :=
  ∀ (e : Err) (h : Bool) (w : Dim),
    ((Status.completed e h w).word.toNat / 16) % 16 =
      (match e with
        | .ok => 0 | .precond => 1 | .acct => 2 | .trunc => 3 | .format => 4 | .noSpace => 5 | .range => 6
        | .cmd => 7) ∧
    (Status.completed e h w).word.toNat % 16 = 2 ∧
    ((Status.completed e h w).word.toNat / 256) % 4 = h.toNat + 2 * (decide (w ≠ 0)).toNat ∧
    (Status.completed e h w).word.toNat < 1024 ∧
    ∀ s : State, s.regs.status = Status.completed e h w →
      step (s.setBus [.regRead 0x04]) = .next ((s.setBus []).setRdata (Status.completed e h w).word)

/-! ## Whole-machine statements -/

/-- The invariant holds at reset. R241 leaves the working registers open there, and R48, R242 the contents of memory: that it
holds is the model's choice of their reset values (log 6) and of an empty memory (log 5). -/
def Obligations.InvariantAtReset : Prop := State.reset.Inv

/-- R21, R22, R23, R26, R27: every step keeps the invariant, from any state that has it. -/
def Obligations.InvariantKeptByStep : Prop :=
  ∀ s t : State, s.Inv → step s = .next t → t.Inv

/-- R158, R220: no step ever completes with `ERR_ACCT`. -/
def Obligations.AccountingErrorNeverRaised : Prop :=
  ∀ s t : State, s.regs.status.err ≠ .acct → step s = .next t → t.regs.status.err ≠ .acct

/-- R45: no instruction reads `LOGLEVEL`, and none writes it. -/
def Obligations.LoglevelHasNoEffect : Prop :=
  ∀ (i : Instr) (s : State) (v : Byte), exec i (s.withLog v) = mapNext (fun t => t.withLog v) (exec i s)

/-- From R29 and R241, and weaker than R29's sentence, which names the input regions only: with equal argument registers, an equal
`LOGLEVEL` and an equal memory as a whole, a command leaves equal host-visible registers and an equal memory; the working
registers, the pending requests and the results of earlier commands do not matter. -/
def Obligations.CommandDependsOnArguments : Prop :=
  ∀ (i : Instr) (s t : State), IsCommand i → s.regs.status.busy = false → t.regs.status.busy = false →
    s.regs.finished .ok false 0 0 0 = t.regs.finished .ok false 0 0 0 → s.mem = t.mem →
    SameResult (exec i s) (exec i t)

/-! ## Memory (20_memory.md) -/

/-- R50, R52: while a command runs, two and four bytes in memory are read little-endian, with nothing changed. -/
def Obligations.LittleEndianReads : Prop :=
  ∀ (s : State) (a : Nat), s.Running →
    (a + 2 ≤ Config.addrSpace → (readLE 2 a).run s =
      .ok ((s.mem.read a).toNat + 256 * (s.mem.read (a + 1)).toNat) s) ∧
    (a + 4 ≤ Config.addrSpace → (readLE 4 a).run s =
      .ok ((s.mem.read a).toNat + 256 * (s.mem.read (a + 1)).toNat + 65536 * (s.mem.read (a + 2)).toNat +
        16777216 * (s.mem.read (a + 3)).toNat) s)

/-- R51 (a), R125, R128, R177: where pixel `k` of stripe `S` lies, in raster order for A, A6 and B, column-major for C. For a
stripe index beyond the row, a `K` beyond the stripe and a `HEIGHT` of 0, which no rule gives a place, the formulas hold as
written by the model's choice (logs 13 and 26). -/
def Obligations.PixelPlace : Prop :=
  ∀ (s : State) (k : Nat),
    (∀ f, f = .a ∨ f = .a6 ∨ f = .b → s.pixelAddr f k =
      s.regs.pixBase.toNat + k / 8 * s.regs.stride.toNat + 8 * s.sel.stripe + k % 8) ∧
    s.pixelAddr .c k = s.regs.pixBase.toNat + k % s.regs.height.toNat * s.regs.stride.toNat +
      8 * s.sel.stripe + k / s.regs.height.toNat

/-! ## Bit Packer and Bit Unpacker (40_bit_packer.md) -/

/-- R101 to R105: `BP.INIT` empties the packer; each write appends the low bits of its operand to the bits held, bit 0 first, keeping at most 7
buffered; a flush turns the bits held into bytes, the last one padded with zero bits. Nothing else changes. -/
def Obligations.PackerWritesBits : Prop :=
  ∀ s : State, exec .bpInit s = .next (s.setBp { wacc := 0, wcnt := 0, wout := [] }) ∧ (s.bp.ok →
    (∀ v n, 1 ≤ n.toNat → n.toNat ≤ 8 → ∃ p : Packer,
      exec (.bpWriteNbits v n) s = .next (s.setBp p) ∧ p.ok ∧ p.bits = s.bp.bits ++ bitsOf n.toNat v.toNat) ∧
    (∀ b, ∃ p : Packer, exec (.bpWriteBit b) s = .next (s.setBp p) ∧ p.ok ∧ p.bits = s.bp.bits ++ [b]) ∧
    (∀ v, ∃ p : Packer, exec (.bpWriteByte v) s = .next (s.setBp p) ∧ p.ok ∧
      p.bits = s.bp.bits ++ bitsOf 8 v.toNat) ∧
    exec .bpFlush s = .next (s.setBp { wacc := 0, wcnt := 0, wout := packBits s.bp.bits }))

/-- R111: after `BP.INIT` and writes of `B` bits in all, `WOUT` holds `B div 8` bytes and `WCNT` is `B mod 8`; after `BP.FLUSH` it
holds `ceil(B / 8)` bytes. -/
def Obligations.PackerLengths : Prop :=
  ∀ (s : State) (ws : List (Byte × BitVec 4)), (∀ w ∈ ws, 1 ≤ w.2.toNat ∧ w.2.toNat ≤ 8) →
    ∃ t u, runAll (.bpInit :: ws.map fun w => .bpWriteNbits w.1 w.2) s = .next t ∧
      t.bp.wout.length = (ws.map fun w => w.2.toNat).sum / 8 ∧
      t.bp.wcnt = (ws.map fun w => w.2.toNat).sum % 8 ∧
      exec .bpFlush t = .next u ∧ u.bp.wout.length = ((ws.map fun w => w.2.toNat).sum + 7) / 8

/-- R103, R108, U2: bit counts outside 1..8 are refused by name, and so is a write to a packer that holds 8 bits or more, which
R22 says does not occur between operations (log 14), whichever of the three write operations makes it. -/
def Obligations.PackerAndUnpackerRefusals : Prop :=
  ∀ (s : State) (v : Byte) (n : BitVec 4),
    (n.toNat = 0 ∨ 8 < n.toNat →
      exec (.bpWriteNbits v n) s = .refused .bitCount ∧ exec (.buReadNbits n) s = .refused .bitCount) ∧
    (7 < s.bp.wcnt →
      (1 ≤ n.toNat → n.toNat ≤ 8 → exec (.bpWriteNbits v n) s = .refused .packerFull) ∧
      (∀ b, exec (.bpWriteBit b) s = .refused .packerFull) ∧ exec (.bpWriteByte v) s = .refused .packerFull)

/-- R106, R107: `BU.INIT` points an empty unpacker at its source; `BU.FILL` pulls one byte when fewer than 8 bits are buffered
and the source is not exhausted, else does nothing, and never moves the stream cursor. Nothing else changes. `start` and the
result are the model's fields (log 17), addresses are naturals (log 15). -/
def Obligations.UnpackerInitAndFill : Prop :=
  ∀ s : State,
    (∀ start stop, exec (.buInit start stop) s = .next (s.setBu { s.bu with
      racc := 0, rcnt := 0, rptr := start.toNat, rend := stop.toNat, start := start.toNat })) ∧
    (s.bu.ok → s.Running → s.bu.rend ≤ Config.addrSpace → ∃ u : Unpacker,
      exec .buFill s = .next (s.setBu u) ∧ u.ok ∧ u.cursor = s.bu.cursor ∧ (s.setBu u).pending = s.pending ∧
        u.rptr = (if s.bu.rcnt < 8 ∧ s.bu.rptr < s.bu.rend then s.bu.rptr + 1 else s.bu.rptr) ∧
        u.rcnt = (if s.bu.rcnt < 8 ∧ s.bu.rptr < s.bu.rend then s.bu.rcnt + 8 else s.bu.rcnt) ∧
        u.start = s.bu.start ∧ u.rend = s.bu.rend ∧ u.result = s.bu.result)

/-- R27, R108, R109: a read of `n` bits takes the next `n` bits of the stream, the first one as bit 0 of the result, and moves
the cursor by `n`; when fewer than `n` remain it completes with `ERR_TRUNC` and takes nothing. The result is the model's field
(log 17); a read presented on its own completes the running command with its error by the model's choice (log 11). -/
def Obligations.UnpackerReadsBits : Prop :=
  ∀ (s : State) (n : Nat) (i : Instr), s.bu.ok → s.Running → s.bu.rend ≤ Config.addrSpace →
    (i = .buReadBit ∧ n = 1 ∨ 1 ≤ n ∧ n ≤ 8 ∧ i = .buReadNbits (BitVec.ofNat 4 n)) →
    (n ≤ s.pending.length → ∃ u : Unpacker,
      exec i s = .next (s.setBu u) ∧ u.ok ∧ u.result.toNat = natOfBits (s.pending.take n) ∧
        (s.setBu u).pending = s.pending.drop n ∧ u.cursor = s.bu.cursor + n ∧
        u.start = s.bu.start ∧ u.rend = s.bu.rend) ∧
    (s.pending.length < n → exec i s = .next (raiseError .trunc s))

/-- R110: reads of the same counts over exactly the bytes that a sequence of writes produced return the written bits, raise
nothing, and leave at most 7 bits, all 0. -/
def Obligations.ReadsMirrorWrites : Prop :=
  ∀ (s r : State) (ws : List (Byte × BitVec 4)) (start : Addr),
    (∀ w ∈ ws, 1 ≤ w.2.toNat ∧ w.2.toNat ≤ 8) →
    start.toNat + (packBits (writtenBits ws)).length ≤ Config.addrSpace →
    r.mem.bytes start.toNat (packBits (writtenBits ws)).length = packBits (writtenBits ws) → r.Running →
    ∃ t r₁ r₂,
      runAll (.bpInit :: (ws.map fun w => .bpWriteNbits w.1 w.2) ++ [.bpFlush]) s = .next t ∧
      t.bp.wout = packBits (writtenBits ws) ∧
      exec (.buInit start (BitVec.ofNat _ (start.toNat + t.bp.wout.length))) r = .next r₁ ∧
      readsBack ws r₁ r₂ ∧ r₂.pending.length ≤ 7 ∧ ∀ b ∈ r₂.pending, b = false

/-! ## Stream codes (42_family_a.md, 43_family_bc.md) -/

/-- R136, R137, R138: the one-pixel codes of Families A and A6. That a code presented on its own is placed by the family and
the transparency last driven, and is skipped whatever `TRANSP.EN` is, is the model's choice (logs 9 and 30). So is a code
presented on its own with `S` at `WIDTH` / 8 or more (log 26) or with no decoder's first pixel before it (log 31). -/
def Obligations.FamilyAOnePixelCodes : Prop :=
  ∀ s : State, s.Inv → s.dp.k < s.npix → s.Running → s.nextAddr < Config.addrSpace →
    s.Produces s.dp (exec .aRep s) ∧
    (∀ v, s.Produces { s.dp with color := v } (exec (.aLit v) s)) ∧
    (∀ d : Int, s.Produces { s.dp with color := BitVec.ofInt 8 ((s.dp.color.toNat : Int) + d) }
      (exec (.aDelta d) s))

/-- R146, R147, R148, R149: the codes of Families B and C. That a code presented on its own is placed by the family and the
transparency last driven, and is skipped whatever `TRANSP.EN` is, is the model's choice (logs 9 and 30). So is a code
presented on its own with `S` at `WIDTH` / 8 or more (log 26) or with no decoder's first pixel before it (log 31). -/
def Obligations.FamilyBCodes : Prop :=
  ∀ s : State, s.Inv → s.dp.k < s.npix → s.Running → s.nextAddr < Config.addrSpace →
    s.Produces s.dp (exec .bRep s) ∧
    (∀ v, s.Produces { s.dp with color := v, inc := .down } (exec (.bLit v) s)) ∧
    (s.dp.inc = .down → s.Produces { s.dp with color := s.dp.color - 1 } (exec .bStep s)) ∧
    (s.dp.inc = .up → s.Produces { s.dp with color := s.dp.color + 1 } (exec .bStep s)) ∧
    (s.dp.inc = .down → s.Produces { s.dp with color := s.dp.color + 1, inc := .up } (exec .bRev s)) ∧
    (s.dp.inc = .up → s.Produces { s.dp with color := s.dp.color - 1, inc := .down } (exec .bRev s))

/-- R134, R135, R139: a run-length escape puts the current colour `min(N, NPIX - K)` times and leaves everything else as it
was; with `N` = 0 it completes with `ERR_FORMAT`. That a code presented on its own is placed by the family and the
transparency last driven, and is skipped whatever `TRANSP.EN` is, is the model's choice (logs 9 and 30). So are a run with no
pixel left (log 12) and an error with no command running (log 11). So is a code presented on its own with `S` at `WIDTH` / 8
or more (log 26) or with no decoder's first pixel before it (log 31). -/
def Obligations.FamilyARunLengthEscape : Prop :=
  ∀ (s : State) (n : Byte),
    (n ≠ 0 → s.Inv → s.Running → (∀ k, s.dp.k ≤ k → k < s.npix → s.pixelAddr s.dp.fam k < Config.addrSpace) →
      ∃ m, exec (.aRun n) s = .next ((s.setDp { s.dp with
          k := s.dp.k + min n.toNat (s.npix - s.dp.k), run := 0 }).setMem m) ∧
        m = s.putColors s.dp.fam s.dp.tr s.sel.stripe s.dp.k
          (List.replicate (min n.toNat (s.npix - s.dp.k)) s.dp.color) s.mem ∧
        ∀ a, (∀ k, s.dp.k ≤ k → k < s.dp.k + min n.toNat (s.npix - s.dp.k) → a ≠ s.pixelAddr s.dp.fam k) →
          m.read a = s.mem.read a) ∧
    (n = 0 → exec (.aRun n) s = .next (raiseError .format s))

/-- Log 12, R79, R132, R142, and logs 10 and 11, R50: a one-pixel code is refused when the stripe has no pixel left; when its
byte would be written, it is refused while no command runs, and faults when the byte lies beyond the space. Which pixel is
skipped, and so not written, is that of logs 9 and 30. A code presented on its own with `S` at `WIDTH` / 8 or more is the
model's choice too (log 26). -/
def Obligations.OnePixelCodeStops : Prop :=
  ∀ (s : State) (i : Instr),
    (i ∈ [.aRep, .bRep, .bStep, .bRev] ∨ ∃ v d, i = .aLit v ∨ i = .aDelta d ∨ i = .bLit v) →
    (s.npix ≤ s.dp.k → exec i s = .refused .noPixelLeft) ∧
    (s.dp.k < s.npix → ¬ s.Skips (nextColor s.dp.color s.dp.inc i).1 →
      (¬ s.Running → exec i s = .refused .noCommandRunning) ∧
      (s.Running → Config.addrSpace ≤ s.nextAddr → exec i s = .fault .addressOutOfRange))

/-! ## Stripe operations (41 to 44) -/

/-- R120, R121: `COMPUTE_SHR` sets `SHR` to the least width of 4 to 8 bits that holds every pixel of the stripe but the first;
it writes nothing else but `S`. That it runs with a stripe index of `WIDTH` / 8 or more, or with a `HEIGHT` of 0, is the
model's choice (logs 26 and 13). -/
def Obligations.ComputeShrIsLeastWidth : Prop :=
  ∀ (s : State) (st : Dim), s.StripeReachable .a st.toNat →
    exec (.computeShr st) s = .next ((s.onStripe st.toNat).setDp { s.dp with
      shr := leastWidth (stripeOf s.picture s.regs.height.toNat .a st.toNat).tail })

/-- R130, R131, R140, R141: each stripe encoder leaves in `WOUT` the first pixel and then the codes of its rule, packed and
padded, and in the datapath the last pixel, the last direction and `NPIX`; it changes nothing else but `S`. What `COLOR`,
`INC`, `K`, `RUN`, `FAM` and `TR` hold after an encoder is the model's (R21 and R73 for their initial values, log 25, DEDUCED;
the selects are held by log 9); so are the width taken from `SHR` (log 7) and a run with a stripe index of `WIDTH` / 8 or more
(log 26). -/
def Obligations.StripeEncoders : Prop :=
  ∀ (s : State) (f : Family) (st : Dim) (p0 : Byte) (ps : List Byte),
    s.regs.height ≠ 0 → s.StripeReachable f st.toNat →
    stripeOf s.picture s.regs.height.toNat f st.toNat = p0 :: ps →
    exec (encoderInstr f st) s = .next { s with
      bp := { wacc := 0, wcnt := 0, wout := packBits (streamOf s.dp.shr p0 (codesOf f p0 ps)) }
      dp := { color := ps.getLastD p0
              inc := (lastColor p0 .down (codesOf f p0 ps)).2
              shr := s.dp.shr
              k := s.npix
              run := 0
              fam := f
              tr := false }
      sel := { s.sel with stripe := st.toNat } }

/-- R132, R133, R142 to R145: a stripe decoder whose source starts with a first pixel and the codes of the stripe puts their
colours at the pixels in its family's order, reads exactly those bits, and changes nothing else; bytes that are no pixel of
the stripe keep their values. The width is taken from `SHR` (log 7); that the selects stay driven (log 9), that a transparent
decoder presented on its own skips `TRANSP.COLOR` also with `TRANSP.EN` 0 (log 30) and that it runs with a stripe index of
`WIDTH` / 8 or more (log 26) is the model's choice. That a decoder presented on its own reads from the stream cursor wherever
it stands, not only from a record's byte 1, is the model's choice too (log 31). -/
def Obligations.StripeDecoders : Prop :=
  ∀ (s : State) (f : Family) (tr : Bool) (st : Dim) (p0 : Byte) (codes : List Instr) (more : List Bool),
    s.StripeReady f st.toNat codes → Covers (s.npix - 1) codes →
    s.pending = streamOf s.dp.shr p0 codes ++ more →
    ∃ u, exec (decoderInstr f tr st) s = .next (s.afterCodes f tr st.toNat p0 codes u) ∧
      (s.afterCodes f tr st.toNat p0 codes u).pending = more ∧
      u.start = s.bu.start ∧ u.rend = s.bu.rend ∧
      u.cursor = s.bu.cursor + (streamOf s.dp.shr p0 codes).length ∧
      ∀ a, (∀ k < s.npix, a ≠ (s.onStripe st.toNat).pixelAddr f k) →
        (s.afterCodes f tr st.toNat p0 codes u).mem.read a = s.mem.read a

/-- R134, R178, R212: a stripe decoder whose source has fewer than 8 bits, so that the first pixel is missing, completes with
`ERR_TRUNC` and writes nothing (R108, R214); one whose source ends within a code, or that reads an `A.RUN` with `N` = 0, while
pixels are left completes with `ERR_TRUNC` or `ERR_FORMAT`; the pixels of the codes before it stay written. What the working
registers hold after the error is log 23 (DEDUCED); that an operation presented on its own completes the running command, or
none, with its error (log 11), and that it runs with a `HEIGHT` of 0 (log 13), with a stripe index of `WIDTH` / 8 or more (log
26) and with `TRANSP.EN` 0 (log 30), is the model's choice. That a decoder presented on its own reads from the stream cursor
wherever it stands, not only from a record's byte 1, is the model's choice too (log 31). -/
def Obligations.StripeDecodersStopOnErrors : Prop :=
  (∀ (s : State) (f : Family) (tr : Bool) (st : Dim), s.pending.length < 8 →
    exec (decoderInstr f tr st) s = .next (raiseError .trunc (s.beginning f tr st.toNat))) ∧
  ∀ (s : State) (f : Family) (tr : Bool) (st : Dim) (p0 : Byte) (codes : List Instr) (more : List Bool),
    s.StripeReady f st.toNat codes → pixelCount codes < s.npix - 1 →
    s.pending = streamOf s.dp.shr p0 codes ++ more →
    (decodeBits (codeFormat f) s.dp.shr more = .error .truncated →
      ∃ u, exec (decoderInstr f tr st) s =
        .next (raiseError .trunc (s.afterCodes f tr st.toNat p0 codes u))) ∧
    (∀ rest, codeFormat f = .acode → more = encodeBits s.dp.shr (.aRun 0) ++ rest →
      ∃ u, exec (decoderInstr f tr st) s =
        .next (raiseError .format (s.afterCodes f tr st.toNat p0 codes u)))

/-- R170, R173, R175, R176: each of the forty type bytes (`typeInstr` over every family, capability and width) runs its
family's decoder on the byte after it, transparent exactly when the base is transparency-capable and `TRANSP.EN` is 1, and
counts towards `HAS_TRANSP` exactly when the base is transparency-capable. That a type byte presented on its own is that of
the stripe in `S`, whatever `S` is, is the model's choice (logs 24 and 26). -/
def Obligations.TypeBytesDispatch : Prop :=
  ∀ (s : State) (f : Family) (tcap : Bool) (shr : ShiftWidth) (p0 : Byte) (codes : List Instr)
    (more : List Bool),
    (s.dispatched tcap shr).StripeReady f s.sel.stripe codes → Covers (s.npix - 1) codes →
    (s.dispatched tcap shr).pending = streamOf shr p0 codes ++ more →
    ∃ u, exec (typeInstr f tcap shr) s =
      .next ((s.dispatched tcap shr).afterCodes f (tcap && s.regs.transpEn) s.sel.stripe p0 codes u) ∧
      ((s.dispatched tcap shr).afterCodes f (tcap && s.regs.transpEn) s.sel.stripe p0 codes u).pending = more

/-- R177: with a stride of at least 8 a stripe's pixels are apart, and colours put from pixel 0 on are read back at their
places, but for the skipped ones, whose bytes keep their values. That the transparent form skips `TRANSP.COLOR` also with
`TRANSP.EN` 0 (log 30), and that a stripe index beyond the row has the places of R51's formula (log 26), is the model's
choice. -/
def Obligations.PutColorsReadBack : Prop :=
  ∀ (s : State) (f : Family) (tr : Bool) (st k : Nat) (cs : List Byte) (c : Byte),
    s.Inv → 8 ≤ s.regs.stride.toNat → s.regs.height ≠ 0 → cs.length ≤ s.npix → cs[k]? = some c →
    (s.putColors f tr st 0 cs s.mem).read ((s.onStripe st).pixelAddr f k) =
      if tr = true ∧ c = s.regs.transpColor then s.mem.read ((s.onStripe st).pixelAddr f k)
      else c + s.regs.palmod

/-- R126, R129: for every stripe and its own shift width, a family's decoder applied to its encoder's output writes exactly
the stripe's pixels, leaves only pad bits unread, and raises nothing. The width is that of `SHR` (log 7); that both run with a
stripe index of `WIDTH` / 8 or more is the model's choice (log 26). That a decoder presented on its own reads from the stream
cursor wherever it stands, not only from a record's byte 1, is the model's choice too (log 31). -/
def Obligations.StripeRoundTrip : Prop :=
  ∀ (s t r : State) (f : Family) (st st' : Dim),
    s.regs.height ≠ 0 → s.StripeReachable f st.toNat →
    s.dp.shr = leastWidth (stripeOf s.picture s.regs.height.toNat .a st.toNat).tail →
    exec (encoderInstr f st) s = .next t →
    r.StripeReady f st'.toNat [] → r.regs.height = s.regs.height → 8 ≤ r.regs.stride.toNat →
    r.regs.palmod = 0 → r.dp.shr = s.dp.shr → r.pending = streamBits t.bp.wout →
    ∃ r', exec (decoderInstr f false st') r = .next r' ∧ r'.regs = r.regs ∧
      stripeOf r'.picture r.regs.height.toNat f st'.toNat = stripeOf s.picture s.regs.height.toNat f st.toNat ∧
      r'.pending.length ≤ 7 ∧ ∀ b ∈ r'.pending, b = false

/-- R127: Family A's output has at most as many bits, and so at most as many bytes, as Family A6's for the same stripe. That
the encoders run with a stripe index of `WIDTH` / 8 or more is the model's choice (log 26). -/
def Obligations.EscapeNeverLonger : Prop :=
  (∀ (shr : ShiftWidth) (p0 : Byte) (ps : List Byte),
    (streamOf shr p0 (codesOf .a p0 ps)).length ≤ (streamOf shr p0 (codesOf .a6 p0 ps)).length) ∧
  ∀ (s t u : State) (st : Dim), s.regs.height ≠ 0 → s.StripeReachable .a st.toNat →
    exec (.encA st) s = .next t → exec (.encA6 st) s = .next u → t.bp.wout.length ≤ u.bp.wout.length

/-- R152: `SELECT` leaves the four candidates and records the first shortest one, with the stripe's shift width; host
registers, memory, unpacker and mask codec keep their values, and so do `TOTAL`, `WPOS` and the results of other stripes. That
`SELECT` itself records its result as the entry of the stripe is the model's choice (log 29). So is a run with a stripe index
of `WIDTH` / 8 or more (log 26). -/
def Obligations.SelectRecordsShortest : Prop :=
  ∀ (s : State) (st : Dim), s.regs.height ≠ 0 → s.StripeReachable .a st.toNat →
    ∃ bp dp cand, exec (.select st) s = .next { s with
        bp := bp
        dp := dp
        sel := { s.sel with
          stripe := st.toNat
          cand := cand
          best := s.sel.best.filter (fun b => decide (b.stripe ≠ st.toNat)) ++
            [bestOf s.picture s.regs.height.toNat st.toNat] } } ∧
      dp.shr = leastWidth (stripeOf s.picture s.regs.height.toNat .a st.toNat).tail ∧
      ∀ f, cand.get f = bitstreamOf f dp.shr (stripeOf s.picture s.regs.height.toNat f st.toNat)

/-- R153, R154: the recorded stream is no longer than any of the four candidates, and the recorded family is never A6
(recorded as log 29, the model's choice, says). A run with a stripe index of `WIDTH` / 8 or more is the model's choice too
(log 26). -/
def Obligations.SelectIsMinimal : Prop :=
  ∀ (s t : State) (st : Dim), s.regs.height ≠ 0 → s.StripeReachable .a st.toNat →
    exec (.select st) s = .next t →
    ∃ b, t.sel.best.getLast? = some b ∧ b.stripe = st.toNat ∧ b.fam ≠ .a6 ∧
      b.stream = t.sel.cand.get b.fam ∧ ∀ f, b.stream.length ≤ (t.sel.cand.get f).length

/-! ## Mask columns (46_mask_codec.md) -/

/-- R192, R193: a repeat run fills its rows, at most those left, overwriting or OR-ing, and moves `Y`; no other byte of memory
and nothing else changes; with a count of 0 it completes with `ERR_FORMAT`. That a run presented on its own with no row left
is run and fills none (log 28), and that its error completes the running command, or none (log 11), is the model's choice. A
run presented on its own with `S` at `WIDTH` / 8 or more is the model's choice too (log 26). -/
def Obligations.MaskRepeatRun : Prop :=
  ∀ (s : State) (n : BitVec 7) (v : Byte),
    (n ≠ 0 → s.Running → (∀ y < s.regs.height.toNat, s.columnAddr y < Config.addrSpace) →
      ∃ m, exec (.mRep n v) s =
        .next ((s.setMask { s.mask with y := s.mask.y + s.clippedRows n }).setMem m) ∧
        m = s.putRows s.sel.stripe s.mask.y (List.replicate (s.clippedRows n) v) s.mem ∧
        ∀ a, (∀ y, s.mask.y ≤ y → y < s.mask.y + s.clippedRows n → a ≠ s.columnAddr y) →
          m.read a = s.mem.read a) ∧
    (n = 0 → exec (.mRep n v) s = .next (raiseError .format s))

/-- R192, R193: a literal run reads one payload byte for each row it fills, at most the rows left, and moves `Y` and `MPTR`;
no other byte of memory and nothing else changes; with a count of 0 it completes with `ERR_FORMAT`. That a run presented on
its own with no row left is run and fills none (log 28), and that its error completes the running command, or none (log 11),
is the model's choice. A run presented on its own with `S` at `WIDTH` / 8 or more is the model's choice too (log 26). -/
def Obligations.MaskLiteralRun : Prop :=
  ∀ (s : State) (n : BitVec 7),
    (n ≠ 0 → s.Inv → s.Running → (∀ y < s.regs.height.toNat, s.columnAddr y < Config.addrSpace ∧
        (s.columnAddr y < s.mask.mptr ∨ s.blobEnd ≤ s.columnAddr y)) →
      s.mask.mptr + s.clippedRows n ≤ s.blobEnd → s.blobEnd ≤ Config.addrSpace →
      ∃ m, exec (.mLit n) s =
        .next ((s.setMask { s.mask with
          y := s.mask.y + s.clippedRows n, mptr := s.mask.mptr + s.clippedRows n }).setMem m) ∧
        m = s.putRows s.sel.stripe s.mask.y (s.mem.bytes s.mask.mptr (s.clippedRows n)) s.mem ∧
        ∀ a, (∀ y, s.mask.y ≤ y → y < s.mask.y + s.clippedRows n → a ≠ s.columnAddr y) →
          m.read a = s.mem.read a) ∧
    (n = 0 → exec (.mLit n) s = .next (raiseError .format s))

/-- R192, R193, R212: a literal run whose payload ends at the end of the blob before its rows are filled writes the rows it
has bytes for and completes with `ERR_TRUNC`. What `Y` and `MPTR` hold after the error is log 23 (DEDUCED); that a run
presented on its own completes the running command is the model's choice (log 11). A run presented on its own with `S` at
`WIDTH` / 8 or more is the model's choice too (log 26). -/
def Obligations.MaskLiteralRunTruncated : Prop :=
  ∀ (s : State) (n : BitVec 7) (avail : Nat), n ≠ 0 → s.Inv → s.Running →
    (∀ y < s.regs.height.toNat, s.columnAddr y < Config.addrSpace ∧
      (s.columnAddr y < s.mask.mptr ∨ s.blobEnd ≤ s.columnAddr y)) →
    s.mask.mptr + avail = s.blobEnd → avail < s.clippedRows n → s.blobEnd ≤ Config.addrSpace →
    exec (.mLit n) s = .next (raiseError .trunc
      ((s.setMask { s.mask with mptr := s.blobEnd }).setMem
        (s.putRows s.sel.stripe s.mask.y (s.mem.bytes s.mask.mptr avail) s.mem)))

/-- R92, R193, R212: a reserved header's effect is `ERR_FORMAT` at the stripe in `S`; memory, argument registers and working
registers keep their values. That this holds with no row left (log 28) and with no command running (log 11) is the model's
choice. A run presented on its own with `S` at `WIDTH` / 8 or more is the model's choice too (log 26). -/
def Obligations.ReservedMaskHeaders : Prop :=
  ∀ (s : State) (i : Instr), i = .mRsvLit0 ∨ i = .mRsvRep0 →
    exec i s = .next (s.setRegs
      (s.regs.finished .format s.sel.hasTransp s.regs.warnCnt (BitVec.ofNat Config.dimw s.sel.stripe) 0))

/-- R190: `ENC_MASK_COL` leaves the column's record in `out`, `Y` at `HEIGHT`, no pending literal, and the record's length in
`MPTR`; nothing else changes but `S`. `out` is the model's field (log 17); a run with a stripe index of `WIDTH` / 8 or more or
with a `HEIGHT` of 0 is the model's choice (logs 26 and 13). -/
def Obligations.MaskColumnEncoder : Prop :=
  ∀ (s : State) (st : Dim), s.Running → (∀ y < s.regs.height.toNat, s.rowAddr st.toNat y < Config.addrSpace) →
    exec (.encMaskCol st) s = .next ((s.onStripe st.toNat).setMask { s.mask with
      litbuf := []
      y := s.regs.height.toNat
      mptr := (maskRecord (columnOf s.picture s.regs.height.toNat st.toNat)).length
      out := maskRecord (columnOf s.picture s.regs.height.toNat st.toNat) })

/-- R192, R193: `DEC_MASK_COL` on a record whose runs fill the column puts the runs' rows into it, clipped to `HEIGHT`, reads
exactly the bytes those rows need, and changes nothing else. On a record that breaks off before the column is full (no header,
a repeat run without its value, a literal run short of payload) it completes with `ERR_TRUNC`, and on a header 0x00 or 0x80
with `ERR_FORMAT`; the rows before stay written and `MPTR` stands past the bytes read (R212, R214, R217, R222). R192 calls
`ofs` non-zero: that the operation runs with an `ofs` of 0 too is the model's choice (log 27), and so are a run with a stripe
index of `WIDTH` / 8 or more (log 26) or a `HEIGHT` of 0 (log 13) and the completion of the running command by its error (log
11); what `Y` and `MPTR` hold after an error is log 23 (DEDUCED). -/
def Obligations.MaskColumnDecoder : Prop :=
  ∀ (s : State) (st : Dim) (ofs : BitVec 16), s.Inv → s.Running →
    (∀ y < s.regs.height.toNat, s.rowAddr st.toNat y < Config.addrSpace ∧
      (s.rowAddr st.toNat y < s.regs.blobBase.toNat ∨ s.blobEnd ≤ s.rowAddr st.toNat y)) →
    s.blobEnd ≤ Config.addrSpace →
    (∀ runs, s.HoldsRuns (s.regs.blobBase.toNat + ofs.toNat) runs →
      ∃ m, exec (.decMaskCol st ofs) s = .next (((s.onStripe st.toNat).setMask { s.mask with
          y := s.regs.height.toNat
          mptr := s.regs.blobBase.toNat + ofs.toNat + (runBytes s.regs.height.toNat runs).length }).setMem m) ∧
        m = s.putRows st.toNat 0 ((runs.flatMap MaskRun.rows).take s.regs.height.toNat) s.mem ∧
        ∀ a, (∀ y < s.regs.height.toNat, a ≠ s.rowAddr st.toNat y) → m.read a = s.mem.read a) ∧
    (∀ runs x, s.RunsStop (s.regs.blobBase.toNat + ofs.toNat) runs x →
      exec (.decMaskCol st ofs) s = .next (raiseError x.err (((s.onStripe st.toNat).setMask { s.mask with
        y := (runs.flatMap MaskRun.rows).length
        mptr := s.regs.blobBase.toNat + ofs.toNat + (stopBytes runs x).length }).setMem
          (s.putRows st.toNat 0 (stopRows runs x) s.mem))))

/-! ## Commands -/

/-- R213: every command tests its precondition first: a width that is not a multiple of 8 or a height of 0 completes with
`ERR_PRECOND` and touches no memory; a width of 0 is accepted and completes `OK` with no stripe; and no command reports
`ERR_PRECOND` otherwise. The running `HAS_TRANSP` that is cleared with `STATUS` is the model's field (log 17). -/
def Obligations.CommandPrecondition : Prop :=
  ∀ (i : Instr) (s : State), IsCommand i → s.regs.status.busy = false →
    (s.regs.width.toNat % 8 ≠ 0 ∨ s.regs.height = 0 →
      exec i s = .next { s with
        regs := s.regs.finished .precond false 0 0 0
        sel := { s.sel with hasTransp := false } }) ∧
    (s.regs.width = 0 → s.regs.height ≠ 0 →
      ∃ t, exec i s = .next t ∧ t.regs = s.regs.finished .ok false 0 0 0 ∧ t.mem = s.mem) ∧
    (s.regs.width.toNat % 8 = 0 → s.regs.height ≠ 0 →
      ∀ t, exec i s = .next t → t.regs.status.err ≠ .precond)

/-- Log 10, R61, R62, R244, U8, U9: a command is refused by name when its addresses leave the space, and when its buffer's
region (the gaps between its rows included) and its blob region share a byte. -/
def Obligations.LaunchPremises : Prop :=
  ∀ (i : Instr) (s : State), IsCommand i → s.Startable →
    (s.addressesFit (s.rowLen i) = false → exec i s = .refused .addressRange) ∧
    (s.addressesFit (s.rowLen i) = true → s.regionsDisjoint (s.rowLen i) = false →
      exec i s = .refused .regionsOverlap)

/-- R156, R76, R63, R215: `ENC_IMAGE` writes the blob of the picture at `PIX_BASE` to `BLOB_BASE`, with its length in `OUT_LEN`,
and no other byte; a blob that does not fit completes with `ERR_NOSPACE` and writes nothing. -/
def Obligations.EncodeImageWritesBlob : Prop :=
  ∀ (s : State) (blob : List Byte), s.Inv → s.Startable → s.Launchable .encImage →
    blob = imageBlob s.regs.transpEn s.picture s.regs.height.toNat s.stripes →
    (blob.length ≤ s.regs.blobSize.toNat → ∃ t, exec .encImage s = .next t ∧
      t.regs = s.regs.finished .ok false 0 0 blob.length ∧
      t.mem.bytes s.regs.blobBase.toNat blob.length = blob ∧
      (∀ a, a < s.regs.blobBase.toNat ∨ s.regs.blobBase.toNat + blob.length ≤ a → t.mem.read a = s.mem.read a) ∧
      t.bu = s.bu ∧ t.mask = s.mask ∧ t.bus = s.bus ∧ t.rdata = s.rdata) ∧
    (s.regs.blobSize.toNat < blob.length → ∃ t, exec .encImage s = .next t ∧
      t.regs = s.regs.finished .noSpace false 0 0 0 ∧ t.mem = s.mem ∧
      t.bu = s.bu ∧ t.mask = s.mask ∧ t.bus = s.bus ∧ t.rdata = s.rdata)

/-- R170, R175 to R177: `DEC_IMAGE` of a blob that holds a picture writes the picture's pixels, plus `PALMOD`, leaving out those of
the transparent colour where the variant is transparent, and no other byte; it completes `OK`, with `HAS_TRANSP` set when a
stripe's base was transparency-capable.
Of any blob (R172, R174, R176, R178, R216, R222): the stripes are taken in ascending order. When every stripe has a record that
covers it or an unrecognised type byte, the decode completes `OK`; the records' pixels are put, the skipped stripes are left as
they were and counted in `WARN_CNT`. When a stripe after such ones cannot be decoded, it completes with that stripe's error and
index and the flags and counts accumulated; the pixels before the failing read stay written. -/
def Obligations.DecodeImageWritesPicture : Prop :=
  (∀ (s : State) (en : Bool) (p : Picture) (blob : List Byte), s.Inv → s.Startable → s.Launchable .decImage →
    blob = imageBlob en p s.regs.height.toNat s.stripes →
    blob.length ≤ s.regs.blobSize.toNat → s.mem.bytes s.regs.blobBase.toNat blob.length = blob →
    s.regs.width.toNat ≤ s.regs.stride.toNat →
    ∃ t, exec .decImage s = .next t ∧
      t.regs = s.regs.finished .ok (en && decide (s.regs.width ≠ 0)) 0 0 0 ∧
      (∀ y < s.regs.height.toNat, ∀ x < s.regs.width.toNat, t.mem.read (s.cellAddr y x) =
        if en = true ∧ s.regs.transpEn = true ∧ p y x = s.regs.transpColor then s.mem.read (s.cellAddr y x)
        else p y x + s.regs.palmod) ∧
      (∀ a, (∀ y < s.regs.height.toNat, ∀ x < s.regs.width.toNat, a ≠ s.cellAddr y x) →
        t.mem.read a = s.mem.read a) ∧
      t.bp = s.bp ∧ t.mask = s.mask ∧ t.bus = s.bus ∧ t.rdata = s.rdata) ∧
  ∀ (s : State) (xs : List StripeFound), s.Inv → s.Startable → s.Launchable .decImage → xs.length ≤ s.stripes →
    (∀ st x, xs[st]? = some x → s.Finds st x) →
    (xs.length = s.stripes → ∃ t, exec .decImage s = .next t ∧
      t.regs = s.regs.finished .ok (xs.any StripeFound.capable)
        (BitVec.ofNat Config.dimw (xs.countP StripeFound.skips)) 0 0 ∧
      t.mem = s.putStripes 0 xs s.mem ∧ t.bp = s.bp ∧ t.mask = s.mask ∧ t.bus = s.bus ∧ t.rdata = s.rdata) ∧
    (∀ stop, xs.length < s.stripes → s.StopsAt xs.length stop → ∃ t, exec .decImage s = .next t ∧
      t.regs = s.regs.finished stop.err (xs.any StripeFound.capable || stop.capable)
        (BitVec.ofNat Config.dimw (xs.countP StripeFound.skips)) (BitVec.ofNat Config.dimw xs.length) 0 ∧
      t.mem = s.putStopped xs.length (s.putStripes 0 xs s.mem) stop ∧
      t.bp = s.bp ∧ t.mask = s.mask ∧ t.bus = s.bus ∧ t.rdata = s.rdata)

/-- R194, R78, R215: `ENC_MASK` writes the blob of the plane at `PIX_BASE` to `BLOB_BASE`, with its length in `OUT_LEN`, and no other
byte, when every record's offset fits 16 bits; a blob that does not fit completes with `ERR_NOSPACE` and writes nothing. -/
def Obligations.EncodeMaskWritesBlob : Prop :=
  ∀ (s : State) (blob : List Byte), s.Inv → s.Startable → s.Launchable .encMask →
    blob = maskBlob s.picture s.regs.height.toNat s.stripes →
    (∀ st < s.stripes, maskEntry s.picture s.regs.height.toNat s.stripes st ≤ 0xFFFF) →
    (blob.length ≤ s.regs.blobSize.toNat → ∃ t, exec .encMask s = .next t ∧
      t.regs = s.regs.finished .ok false 0 0 blob.length ∧
      t.mem.bytes s.regs.blobBase.toNat blob.length = blob ∧
      (∀ a, a < s.regs.blobBase.toNat ∨ s.regs.blobBase.toNat + blob.length ≤ a → t.mem.read a = s.mem.read a) ∧
      t.bp = s.bp ∧ t.bu = s.bu ∧ t.dp = s.dp ∧ t.bus = s.bus ∧ t.rdata = s.rdata) ∧
    (s.regs.blobSize.toNat < blob.length → ∃ t, exec .encMask s = .next t ∧
      t.regs = s.regs.finished .noSpace false 0 0 0 ∧ t.mem = s.mem ∧
      t.bp = s.bp ∧ t.bu = s.bu ∧ t.dp = s.dp ∧ t.bus = s.bus ∧ t.rdata = s.rdata)

/-- R194, R221, R222: `ENC_MASK` completes with `ERR_RANGE` at the first stripe whose column is not zero and whose record would
start above 0xFFFF, before `BLOB_SIZE` is looked at, and writes nothing. -/
def Obligations.MaskOffsetOutOfRange : Prop :=
  ∀ (s : State) (st : Nat), s.Startable → s.Launchable .encMask → st < s.stripes →
    0xFFFF < maskEntry s.picture s.regs.height.toNat s.stripes st →
    (∀ j < st, maskEntry s.picture s.regs.height.toNat s.stripes j ≤ 0xFFFF) →
    ∃ t, exec .encMask s = .next t ∧ t.regs = s.regs.finished .range false 0 (BitVec.ofNat Config.dimw st) 0 ∧
      t.mem = s.mem

/-- R196, R192, R250: `DEC_MASK` of a blob that holds a plane writes the plane's bytes, or ORs them into the destination when
`MODE.OR` is 1, and no other byte; it completes `OK`. Columns of zeros have no record: overwriting zero-fills them.
Of any blob (R193, R222): the stripes are taken in ascending order. When every entry is 0 or has a record that fills its column,
the decode completes `OK` with the rows of the records put and absent columns zero-filled, or left in OR mode. When an entry
after such ones is not wholly in the blob it completes with `ERR_TRUNC`, when a record breaks off or has a count of 0 with that
error, and with that stripe's index; what was written before stays written. -/
def Obligations.DecodeMaskWritesPlane : Prop :=
  (∀ (s : State) (p : Picture) (blob : List Byte), s.Inv → s.Startable → s.Launchable .decMask →
    blob = maskBlob p s.regs.height.toNat s.stripes →
    (∀ st < s.stripes, maskEntry p s.regs.height.toNat s.stripes st ≤ 0xFFFF) →
    blob.length ≤ s.regs.blobSize.toNat → s.mem.bytes s.regs.blobBase.toNat blob.length = blob →
    s.stripes ≤ s.regs.stride.toNat →
    ∃ t, exec .decMask s = .next t ∧ t.regs = s.regs.finished .ok false 0 0 0 ∧
      (∀ y < s.regs.height.toNat, ∀ x < s.stripes, t.mem.read (s.cellAddr y x) =
        if s.regs.modeOr then s.mem.read (s.cellAddr y x) ||| p y x else p y x) ∧
      (∀ a, (∀ y < s.regs.height.toNat, ∀ x < s.stripes, a ≠ s.cellAddr y x) → t.mem.read a = s.mem.read a) ∧
      t.bp = s.bp ∧ t.bu = s.bu ∧ t.dp = s.dp ∧ t.bus = s.bus ∧ t.rdata = s.rdata) ∧
  ∀ (s : State) (xs : List (Option (List MaskRun))), s.Inv → s.Startable → s.Launchable .decMask →
    xs.length ≤ s.stripes → (∀ st x, xs[st]? = some x → s.FindsColumn st x) →
    (xs.length = s.stripes → ∃ t, exec .decMask s = .next t ∧ t.regs = s.regs.finished .ok false 0 0 0 ∧
      t.mem = s.putColumns 0 xs s.mem ∧
      t.bp = s.bp ∧ t.bu = s.bu ∧ t.dp = s.dp ∧ t.bus = s.bus ∧ t.rdata = s.rdata) ∧
    (xs.length < s.stripes → s.regs.blobSize.toNat < 2 * xs.length + 2 → ∃ t, exec .decMask s = .next t ∧
      t.regs = s.regs.finished .trunc false 0 (BitVec.ofNat Config.dimw xs.length) 0 ∧
      t.mem = s.putColumns 0 xs s.mem ∧
      t.bp = s.bp ∧ t.bu = s.bu ∧ t.dp = s.dp ∧ t.bus = s.bus ∧ t.rdata = s.rdata) ∧
    (∀ runs stop, xs.length < s.stripes → 2 * xs.length + 2 ≤ s.regs.blobSize.toNat →
      s.maskEntryOf xs.length ≠ 0 →
      s.RunsStop (s.regs.blobBase.toNat + s.maskEntryOf xs.length) runs stop → ∃ t, exec .decMask s = .next t ∧
      t.regs = s.regs.finished stop.err false 0 (BitVec.ofNat Config.dimw xs.length) 0 ∧
      t.mem = s.putRows xs.length 0 (stopRows runs stop) (s.putColumns 0 xs s.mem) ∧
      t.bp = s.bp ∧ t.bu = s.bu ∧ t.dp = s.dp ∧ t.bus = s.bus ∧ t.rdata = s.rdata)

/-- R157: decoding what `ENC_IMAGE` wrote, with the same dimensions and `TRANSP`, `PALMOD` 0 and `BLOB_SIZE` the blob's length,
completes `OK` with no warning and reproduces every pixel, except that pixels of the transparent colour keep the destination's
byte; `HAS_TRANSP` is `TRANSP.EN` (when there is a stripe at all). -/
def Obligations.ImageRoundTrip : Prop :=
  ∀ s t r : State, s.Inv → s.regs.status.busy = false → exec .encImage s = .next t → t.regs.status.err = .ok →
    r.Inv → r.Startable → r.Launchable .decImage →
    r.regs.width = s.regs.width → r.regs.height = s.regs.height →
    r.regs.transpEn = s.regs.transpEn → r.regs.transpColor = s.regs.transpColor →
    r.regs.palmod = 0 → r.regs.blobSize = t.regs.outLen →
    r.mem.bytes r.regs.blobBase.toNat t.regs.outLen.toNat = t.mem.bytes s.regs.blobBase.toNat t.regs.outLen.toNat →
    r.regs.width.toNat ≤ r.regs.stride.toNat →
    ∃ r', exec .decImage r = .next r' ∧ r'.regs.status.err = .ok ∧ r'.regs.warnCnt = 0 ∧
      r'.regs.status.hasTransp = (s.regs.transpEn && decide (s.regs.width ≠ 0)) ∧
      ∀ y < s.regs.height.toNat, ∀ x < s.regs.width.toNat, r'.mem.read (r.cellAddr y x) =
        if s.regs.transpEn = true ∧ s.picture y x = s.regs.transpColor then r.mem.read (r.cellAddr y x)
        else s.picture y x

/-- R195: `ENC_MASK` followed by `DEC_MASK` in overwrite mode, with `BLOB_SIZE` the blob's length and the same dimensions,
reproduces every byte of the plane whatever the destination held, and raises nothing. -/
def Obligations.MaskRoundTrip : Prop :=
  ∀ s t r : State, s.Inv → s.regs.status.busy = false → exec .encMask s = .next t → t.regs.status.err = .ok →
    r.Inv → r.Startable → r.Launchable .decMask → r.regs.modeOr = false →
    r.regs.width = s.regs.width → r.regs.height = s.regs.height → r.regs.blobSize = t.regs.outLen →
    r.mem.bytes r.regs.blobBase.toNat t.regs.outLen.toNat = t.mem.bytes s.regs.blobBase.toNat t.regs.outLen.toNat →
    r.stripes ≤ r.regs.stride.toNat →
    ∃ r', exec .decMask r = .next r' ∧ r'.regs.status.err = .ok ∧
      ∀ y < s.regs.height.toNat, ∀ x < s.stripes, r'.mem.read (r.cellAddr y x) = s.picture y x

/-- R63, R179, R199, R212: however a decode ends, with or without an error, it changed no byte but those of its own picture or
plane, and no argument register. -/
def Obligations.DecodeFootprint : Prop :=
  ∀ (i : Instr) (s t : State), i = .decImage ∨ i = .decMask → s.Inv → exec i s = .next t →
    (∀ a, (∀ y < s.regs.height.toNat, ∀ x < s.rowLen i, a ≠ s.cellAddr y x) → t.mem.read a = s.mem.read a) ∧
    t.regs.finished .ok false 0 0 0 = s.regs.finished .ok false 0 0 0

/-- R63, R212, R215: however an encode ends, it changed no byte beyond blob bytes `0 .. OUT_LEN - 1`, and none at all when it ended
with an error; argument registers keep their values. -/
def Obligations.EncodeFootprint : Prop :=
  ∀ (i : Instr) (s t : State), i = .encImage ∨ i = .encMask → s.regs.status.busy = false →
    exec i s = .next t →
    (∀ a, a < s.regs.blobBase.toNat ∨ s.regs.blobBase.toNat + t.regs.outLen.toNat ≤ a →
      t.mem.read a = s.mem.read a) ∧
    (t.regs.status.err ≠ .ok → t.mem = s.mem ∧ t.regs.outLen = 0) ∧
    t.regs.finished .ok false 0 0 0 = s.regs.finished .ok false 0 0 0

end
end

