-- ==== Sys2Proof/Laws/Memory.lean ====
section
/-! SUPPORT. Memory: a read after a write, and the canonical form that every write keeps. -/

namespace Sys2Proof

/-- The size of the space with the default `AW` (R7, R50). -/
theorem Config.addrSpace_eq : Config.addrSpace = 4294967296 := rfl

end Sys2Proof

namespace Sys2Proof.Machine

theorem Memory.risingFrom_mono {m : Memory} {lo lo' : Nat} (h : lo' ≤ lo) (hm : Memory.risingFrom lo m = true) :
    Memory.risingFrom lo' m = true := by
  cases m with
  | nil => rfl
  | cons c rest =>
    simp only [Memory.risingFrom, Bool.and_eq_true, decide_eq_true_eq] at hm ⊢
    exact ⟨by omega, hm.2⟩

theorem Memory.read_below {m : Memory} {lo a : Nat} (hm : Memory.risingFrom lo m = true) (h : a < lo) :
    m.read a = Config.unlistedByte := by
  induction m generalizing lo with
  | nil => rfl
  | cons c rest ih =>
    obtain ⟨a', b⟩ := c
    simp only [Memory.risingFrom, Bool.and_eq_true, decide_eq_true_eq] at hm
    simp only [Memory.read, if_neg (show a' ≠ a by omega)]
    exact ih hm.2 (by omega)

/-- A byte that was just written reads as written. -/
theorem Memory.read_write_same {m : Memory} {lo : Nat} (hm : Memory.risingFrom lo m = true) (a : Nat) (v : Byte) :
    (m.write a v).read a = v := by
  induction m generalizing lo with
  | nil => by_cases hv : v = Config.unlistedByte <;> simp [Memory.write, Memory.read, hv]
  | cons c rest ih =>
    obtain ⟨a', b⟩ := c
    simp only [Memory.risingFrom, Bool.and_eq_true, decide_eq_true_eq] at hm
    simp only [Memory.write]
    split
    · split
      · next h hv =>
        simp only [Memory.read, if_neg (show a' ≠ a by omega), hv]
        exact Memory.read_below hm.2 (by omega)
      · simp [Memory.read]
    · split
      · next h ha =>
        subst ha
        split
        · next hv => rw [hv]; exact Memory.read_below hm.2 (by omega)
        · simp [Memory.read]
      · next h ha =>
        simp only [Memory.read, if_neg (show a' ≠ a by omega)]
        exact ih hm.2

/-- A write leaves every other byte alone. -/
theorem Memory.read_write_other (m : Memory) {a a₂ : Nat} (v : Byte) (h : a₂ ≠ a) :
    (m.write a v).read a₂ = m.read a₂ := by
  induction m with
  | nil => by_cases hv : v = Config.unlistedByte <;> simp [Memory.write, Memory.read, hv, Ne.symm h]
  | cons c rest ih =>
    obtain ⟨a', b⟩ := c
    simp only [Memory.write]
    split
    · split <;> simp [Memory.read, Ne.symm h]
    · split
      · next _ ha => subst ha; split <;> simp [Memory.read, Ne.symm h]
      · simp only [Memory.read, ih]

theorem Memory.risingFrom_write {m : Memory} {lo a : Nat} {v : Byte} (hm : Memory.risingFrom lo m = true)
    (h : lo ≤ a) : Memory.risingFrom lo (m.write a v) = true := by
  induction m generalizing lo with
  | nil => by_cases hv : v = Config.unlistedByte <;> simp [Memory.write, Memory.risingFrom, hv, h]
  | cons c rest ih =>
    obtain ⟨a', b⟩ := c
    simp only [Memory.risingFrom, Bool.and_eq_true, decide_eq_true_eq] at hm
    simp only [Memory.write]
    split
    · split
      · simp only [Memory.risingFrom, Bool.and_eq_true, decide_eq_true_eq]; exact hm
      · simp only [Memory.risingFrom, Bool.and_eq_true, decide_eq_true_eq]
        exact ⟨h, by omega, hm.2⟩
    · split
      · split
        · exact Memory.risingFrom_mono (by omega) hm.2
        · next ha _ => subst ha; simp only [Memory.risingFrom, Bool.and_eq_true, decide_eq_true_eq]; exact hm
      · simp only [Memory.risingFrom, Bool.and_eq_true, decide_eq_true_eq]
        exact ⟨hm.1, ih hm.2 (by omega)⟩

theorem Memory.all_write {m : Memory} {a : Nat} {v : Byte} (p : Host.Cell → Bool) (hm : m.all p = true)
    (h : v ≠ Config.unlistedByte → p (a, v) = true) : (m.write a v).all p = true := by
  induction m with
  | nil => by_cases hv : v = Config.unlistedByte <;> simp_all [Memory.write]
  | cons c rest ih =>
    obtain ⟨a', b⟩ := c
    simp only [List.all_cons, Bool.and_eq_true] at hm
    simp only [Memory.write]
    split
    · split <;> simp_all
    · split
      · split <;> simp_all
      · simp_all

/-- Every write inside the space keeps the canonical form. -/
theorem Memory.wf_write {m : Memory} {a : Nat} {v : Byte} (hm : m.wf = true) (h : a < Config.addrSpace) :
    (m.write a v).wf = true := by
  simp only [Memory.wf, Bool.and_eq_true] at hm ⊢
  exact ⟨Memory.risingFrom_write hm.1 (Nat.zero_le a), Memory.all_write _ hm.2 fun hv => by simp [h, hv]⟩

/-- In canonical form a read after a write is decided by the addresses. -/
theorem Memory.read_write {m : Memory} (hm : m.wf = true) (a a₂ : Nat) (v : Byte) :
    (m.write a v).read a₂ = if a₂ = a then v else m.read a₂ := by
  simp only [Memory.wf, Bool.and_eq_true] at hm
  split
  · next h => subst h; exact Memory.read_write_same hm.1 a₂ v
  · next h => exact Memory.read_write_other m v h

/-- The memory of reset has the canonical form. -/
theorem Memory.wf_reset : State.reset.mem.wf = true := rfl

end Sys2Proof.Machine
end

