-- ==== Sys2Proof/Laws/State.lean ====
section
/-! SUPPORT. What each update of the state does to each of its fields. -/

namespace Sys2Proof.Machine

@[simp] theorem State.setRegs_regs (s : State) (x : Regs) : (s.setRegs x).regs = x := rfl
@[simp] theorem State.setRegs_dp (s : State) (x : Regs) : (s.setRegs x).dp = s.dp := rfl
@[simp] theorem State.setRegs_bp (s : State) (x : Regs) : (s.setRegs x).bp = s.bp := rfl
@[simp] theorem State.setRegs_bu (s : State) (x : Regs) : (s.setRegs x).bu = s.bu := rfl
@[simp] theorem State.setRegs_sel (s : State) (x : Regs) : (s.setRegs x).sel = s.sel := rfl
@[simp] theorem State.setRegs_mask (s : State) (x : Regs) : (s.setRegs x).mask = s.mask := rfl
@[simp] theorem State.setRegs_mem (s : State) (x : Regs) : (s.setRegs x).mem = s.mem := rfl
@[simp] theorem State.setRegs_bus (s : State) (x : Regs) : (s.setRegs x).bus = s.bus := rfl
@[simp] theorem State.setRegs_rdata (s : State) (x : Regs) : (s.setRegs x).rdata = s.rdata := rfl
@[simp] theorem State.setRegs_self (s : State) : s.setRegs s.regs = s := rfl
@[simp] theorem State.setRegs_setRegs (s : State) (x y : Regs) :
    (s.setRegs x).setRegs y = s.setRegs y := rfl

@[simp] theorem State.setDp_regs (s : State) (x : Datapath) : (s.setDp x).regs = s.regs := rfl
@[simp] theorem State.setDp_dp (s : State) (x : Datapath) : (s.setDp x).dp = x := rfl
@[simp] theorem State.setDp_bp (s : State) (x : Datapath) : (s.setDp x).bp = s.bp := rfl
@[simp] theorem State.setDp_bu (s : State) (x : Datapath) : (s.setDp x).bu = s.bu := rfl
@[simp] theorem State.setDp_sel (s : State) (x : Datapath) : (s.setDp x).sel = s.sel := rfl
@[simp] theorem State.setDp_mask (s : State) (x : Datapath) : (s.setDp x).mask = s.mask := rfl
@[simp] theorem State.setDp_mem (s : State) (x : Datapath) : (s.setDp x).mem = s.mem := rfl
@[simp] theorem State.setDp_bus (s : State) (x : Datapath) : (s.setDp x).bus = s.bus := rfl
@[simp] theorem State.setDp_rdata (s : State) (x : Datapath) : (s.setDp x).rdata = s.rdata := rfl
@[simp] theorem State.setDp_self (s : State) : s.setDp s.dp = s := rfl
@[simp] theorem State.setDp_setDp (s : State) (x y : Datapath) :
    (s.setDp x).setDp y = s.setDp y := rfl

@[simp] theorem State.setBp_regs (s : State) (x : Packer) : (s.setBp x).regs = s.regs := rfl
@[simp] theorem State.setBp_dp (s : State) (x : Packer) : (s.setBp x).dp = s.dp := rfl
@[simp] theorem State.setBp_bp (s : State) (x : Packer) : (s.setBp x).bp = x := rfl
@[simp] theorem State.setBp_bu (s : State) (x : Packer) : (s.setBp x).bu = s.bu := rfl
@[simp] theorem State.setBp_sel (s : State) (x : Packer) : (s.setBp x).sel = s.sel := rfl
@[simp] theorem State.setBp_mask (s : State) (x : Packer) : (s.setBp x).mask = s.mask := rfl
@[simp] theorem State.setBp_mem (s : State) (x : Packer) : (s.setBp x).mem = s.mem := rfl
@[simp] theorem State.setBp_bus (s : State) (x : Packer) : (s.setBp x).bus = s.bus := rfl
@[simp] theorem State.setBp_rdata (s : State) (x : Packer) : (s.setBp x).rdata = s.rdata := rfl
@[simp] theorem State.setBp_self (s : State) : s.setBp s.bp = s := rfl
@[simp] theorem State.setBp_setBp (s : State) (x y : Packer) :
    (s.setBp x).setBp y = s.setBp y := rfl

@[simp] theorem State.setBu_regs (s : State) (x : Unpacker) : (s.setBu x).regs = s.regs := rfl
@[simp] theorem State.setBu_dp (s : State) (x : Unpacker) : (s.setBu x).dp = s.dp := rfl
@[simp] theorem State.setBu_bp (s : State) (x : Unpacker) : (s.setBu x).bp = s.bp := rfl
@[simp] theorem State.setBu_bu (s : State) (x : Unpacker) : (s.setBu x).bu = x := rfl
@[simp] theorem State.setBu_sel (s : State) (x : Unpacker) : (s.setBu x).sel = s.sel := rfl
@[simp] theorem State.setBu_mask (s : State) (x : Unpacker) : (s.setBu x).mask = s.mask := rfl
@[simp] theorem State.setBu_mem (s : State) (x : Unpacker) : (s.setBu x).mem = s.mem := rfl
@[simp] theorem State.setBu_bus (s : State) (x : Unpacker) : (s.setBu x).bus = s.bus := rfl
@[simp] theorem State.setBu_rdata (s : State) (x : Unpacker) : (s.setBu x).rdata = s.rdata := rfl
@[simp] theorem State.setBu_self (s : State) : s.setBu s.bu = s := rfl
@[simp] theorem State.setBu_setBu (s : State) (x y : Unpacker) :
    (s.setBu x).setBu y = s.setBu y := rfl

@[simp] theorem State.setSel_regs (s : State) (x : Selector) : (s.setSel x).regs = s.regs := rfl
@[simp] theorem State.setSel_dp (s : State) (x : Selector) : (s.setSel x).dp = s.dp := rfl
@[simp] theorem State.setSel_bp (s : State) (x : Selector) : (s.setSel x).bp = s.bp := rfl
@[simp] theorem State.setSel_bu (s : State) (x : Selector) : (s.setSel x).bu = s.bu := rfl
@[simp] theorem State.setSel_sel (s : State) (x : Selector) : (s.setSel x).sel = x := rfl
@[simp] theorem State.setSel_mask (s : State) (x : Selector) : (s.setSel x).mask = s.mask := rfl
@[simp] theorem State.setSel_mem (s : State) (x : Selector) : (s.setSel x).mem = s.mem := rfl
@[simp] theorem State.setSel_bus (s : State) (x : Selector) : (s.setSel x).bus = s.bus := rfl
@[simp] theorem State.setSel_rdata (s : State) (x : Selector) : (s.setSel x).rdata = s.rdata := rfl
@[simp] theorem State.setSel_self (s : State) : s.setSel s.sel = s := rfl
@[simp] theorem State.setSel_setSel (s : State) (x y : Selector) :
    (s.setSel x).setSel y = s.setSel y := rfl

@[simp] theorem State.setMask_regs (s : State) (x : MaskRegs) : (s.setMask x).regs = s.regs := rfl
@[simp] theorem State.setMask_dp (s : State) (x : MaskRegs) : (s.setMask x).dp = s.dp := rfl
@[simp] theorem State.setMask_bp (s : State) (x : MaskRegs) : (s.setMask x).bp = s.bp := rfl
@[simp] theorem State.setMask_bu (s : State) (x : MaskRegs) : (s.setMask x).bu = s.bu := rfl
@[simp] theorem State.setMask_sel (s : State) (x : MaskRegs) : (s.setMask x).sel = s.sel := rfl
@[simp] theorem State.setMask_mask (s : State) (x : MaskRegs) : (s.setMask x).mask = x := rfl
@[simp] theorem State.setMask_mem (s : State) (x : MaskRegs) : (s.setMask x).mem = s.mem := rfl
@[simp] theorem State.setMask_bus (s : State) (x : MaskRegs) : (s.setMask x).bus = s.bus := rfl
@[simp] theorem State.setMask_rdata (s : State) (x : MaskRegs) : (s.setMask x).rdata = s.rdata := rfl
@[simp] theorem State.setMask_self (s : State) : s.setMask s.mask = s := rfl
@[simp] theorem State.setMask_setMask (s : State) (x y : MaskRegs) :
    (s.setMask x).setMask y = s.setMask y := rfl

@[simp] theorem State.setMem_regs (s : State) (x : Memory) : (s.setMem x).regs = s.regs := rfl
@[simp] theorem State.setMem_dp (s : State) (x : Memory) : (s.setMem x).dp = s.dp := rfl
@[simp] theorem State.setMem_bp (s : State) (x : Memory) : (s.setMem x).bp = s.bp := rfl
@[simp] theorem State.setMem_bu (s : State) (x : Memory) : (s.setMem x).bu = s.bu := rfl
@[simp] theorem State.setMem_sel (s : State) (x : Memory) : (s.setMem x).sel = s.sel := rfl
@[simp] theorem State.setMem_mask (s : State) (x : Memory) : (s.setMem x).mask = s.mask := rfl
@[simp] theorem State.setMem_mem (s : State) (x : Memory) : (s.setMem x).mem = x := rfl
@[simp] theorem State.setMem_bus (s : State) (x : Memory) : (s.setMem x).bus = s.bus := rfl
@[simp] theorem State.setMem_rdata (s : State) (x : Memory) : (s.setMem x).rdata = s.rdata := rfl
@[simp] theorem State.setMem_self (s : State) : s.setMem s.mem = s := rfl
@[simp] theorem State.setMem_setMem (s : State) (x y : Memory) :
    (s.setMem x).setMem y = s.setMem y := rfl

@[simp] theorem State.setBus_regs (s : State) (x : List Request) : (s.setBus x).regs = s.regs := rfl
@[simp] theorem State.setBus_dp (s : State) (x : List Request) : (s.setBus x).dp = s.dp := rfl
@[simp] theorem State.setBus_bp (s : State) (x : List Request) : (s.setBus x).bp = s.bp := rfl
@[simp] theorem State.setBus_bu (s : State) (x : List Request) : (s.setBus x).bu = s.bu := rfl
@[simp] theorem State.setBus_sel (s : State) (x : List Request) : (s.setBus x).sel = s.sel := rfl
@[simp] theorem State.setBus_mask (s : State) (x : List Request) : (s.setBus x).mask = s.mask := rfl
@[simp] theorem State.setBus_mem (s : State) (x : List Request) : (s.setBus x).mem = s.mem := rfl
@[simp] theorem State.setBus_bus (s : State) (x : List Request) : (s.setBus x).bus = x := rfl
@[simp] theorem State.setBus_rdata (s : State) (x : List Request) : (s.setBus x).rdata = s.rdata := rfl
@[simp] theorem State.setBus_self (s : State) : s.setBus s.bus = s := rfl
@[simp] theorem State.setBus_setBus (s : State) (x y : List Request) :
    (s.setBus x).setBus y = s.setBus y := rfl

@[simp] theorem State.setRdata_regs (s : State) (x : Word) : (s.setRdata x).regs = s.regs := rfl
@[simp] theorem State.setRdata_dp (s : State) (x : Word) : (s.setRdata x).dp = s.dp := rfl
@[simp] theorem State.setRdata_bp (s : State) (x : Word) : (s.setRdata x).bp = s.bp := rfl
@[simp] theorem State.setRdata_bu (s : State) (x : Word) : (s.setRdata x).bu = s.bu := rfl
@[simp] theorem State.setRdata_sel (s : State) (x : Word) : (s.setRdata x).sel = s.sel := rfl
@[simp] theorem State.setRdata_mask (s : State) (x : Word) : (s.setRdata x).mask = s.mask := rfl
@[simp] theorem State.setRdata_mem (s : State) (x : Word) : (s.setRdata x).mem = s.mem := rfl
@[simp] theorem State.setRdata_bus (s : State) (x : Word) : (s.setRdata x).bus = s.bus := rfl
@[simp] theorem State.setRdata_rdata (s : State) (x : Word) : (s.setRdata x).rdata = x := rfl
@[simp] theorem State.setRdata_self (s : State) : s.setRdata s.rdata = s := rfl
@[simp] theorem State.setRdata_setRdata (s : State) (x y : Word) :
    (s.setRdata x).setRdata y = s.setRdata y := rfl

end Sys2Proof.Machine
end

