-- ==== Sys2Proof/Laws/Ops.lean ====
section
/-! SUPPORT. For each shared operation, what it can do, once: the provers cite these instead of unfolding it. -/

namespace Sys2Proof.Machine

/-! ## Memory accesses -/

theorem State.reaches_iff (s : State) (a : Nat) :
    s.reaches a = true ↔ s.regs.status.busy = true ∧ a < Config.addrSpace := by
  simp [State.reaches]

theorem reachMemory_run (a : Nat) (s : State) :
    (reachMemory a).run s = if s.reaches a then .ok () s else .error s.unreached s := by
  unfold reachMemory
  cases h : s.reaches a <;> simp [h]

theorem readByte_run (a : Nat) (s : State) :
    (readByte a).run s = if s.reaches a then .ok (s.mem.read a) s else .error s.unreached s := by
  unfold readByte
  cases h : s.reaches a <;> simp [reachMemory_run, h]

theorem writeByte_run (a : Nat) (v : Byte) (s : State) :
    (writeByte a v).run s =
      if s.reaches a then .ok () (s.setMem (s.mem.write a v)) else .error s.unreached s := by
  unfold writeByte
  cases h : s.reaches a <;> simp [reachMemory_run, h]

/-- A read that succeeds leaves the state alone. -/
theorem readByte_ok {a : Nat} {s t : State} {b : Byte} (h : (readByte a).run s = .ok b t) :
    s.reaches a = true ∧ b = s.mem.read a ∧ t = s := by
  rw [readByte_run] at h
  split at h
  · next ha => cases h; exact ⟨ha, rfl, rfl⟩
  · cases h

/-- A write that succeeds changes one byte of memory and keeps the canonical form. -/
theorem writeByte_ok {a : Nat} {v : Byte} {s t : State} {u : Unit} (h : (writeByte a v).run s = .ok u t) :
    s.reaches a = true ∧ t = s.setMem (s.mem.write a v) ∧ (s.mem.wf = true → t.mem.wf = true) := by
  rw [writeByte_run] at h
  split at h
  · next ha => cases h; exact ⟨ha, rfl, fun hm => Memory.wf_write hm ((State.reaches_iff s a).mp ha).2⟩
  · cases h

/-! ## Loops -/

theorem whileUpTo_zero (cond : State → Bool) (body : Act Unit) (s : State) :
    (whileUpTo cond body 0).run s = .ok () s := rfl

theorem whileUpTo_done {cond : State → Bool} {s : State} (body : Act Unit) (n : Nat) (h : cond s = false) :
    (whileUpTo cond body n).run s = .ok () s := by
  cases n with
  | zero => rfl
  | succ n => simp [whileUpTo, h]

theorem whileUpTo_step {cond : State → Bool} {s : State} (body : Act Unit) (n : Nat) (h : cond s = true) :
    (whileUpTo cond body (n + 1)).run s = (do body; whileUpTo cond body n : Act Unit).run s := by
  simp [whileUpTo, h]

theorem eachFrom_zero (body : Nat → Act Unit) (i : Nat) (s : State) :
    (eachFrom body 0 i).run s = .ok () s := rfl

theorem eachFrom_succ (body : Nat → Act Unit) (n i : Nat) (s : State) :
    (eachFrom body (n + 1) i).run s = (do body i; eachFrom body n (i + 1) : Act Unit).run s := rfl

/-! ## Starting and completing -/

theorem runUnit_ok {body : Act Unit} {s t : State} {u : Unit} (h : body.run s = .ok u t) :
    runUnit body s = .next t := by
  simp [runUnit, h]

theorem runUnit_raise {body : Act Unit} {s t : State} {e : Err} (h : body.run s = .error (.raise e) t) :
    runUnit body s = .next (raiseError e t) := by
  simp [runUnit, h, stopped]

/-- A unit operation that answers a next state ran to its end, or raised an error. -/
theorem runUnit_next {body : Act Unit} {s t : State} (h : runUnit body s = .next t) :
    body.run s = .ok () t ∨ ∃ e t', body.run s = .error (.raise e) t' ∧ t = raiseError e t' := by
  unfold runUnit at h
  split at h
  · next s' hb => cases h; exact .inl hb
  · next st s' hb =>
    cases st with
    | raise e => cases h; exact .inr ⟨e, s', hb, rfl⟩
    | fault f => cases h
    | refuse r => cases h

theorem runCommand_busy {body : Act Nat} {s : State} (h : s.regs.status.busy = true) :
    runCommand body s = .next s := by
  simp [runCommand, h]

theorem runCommand_ok {body : Act Nat} {s t : State} {n : Nat} (hb : s.regs.status.busy = false)
    (h : body.run (startCommand s) = .ok n t) : runCommand body s = .next (completeOk n t) := by
  simp [runCommand, hb, h]

theorem runCommand_raise {body : Act Nat} {s t : State} {e : Err} (hb : s.regs.status.busy = false)
    (h : body.run (startCommand s) = .error (.raise e) t) : runCommand body s = .next (raiseError e t) := by
  simp [runCommand, hb, h, stopped]

/-- A command that answers a next state was ignored, completed, or raised an error. -/
theorem runCommand_next {body : Act Nat} {s t : State} (h : runCommand body s = .next t) :
    (s.regs.status.busy = true ∧ t = s) ∨
    (∃ n t', body.run (startCommand s) = .ok n t' ∧ t = completeOk n t') ∨
    ∃ e t', body.run (startCommand s) = .error (.raise e) t' ∧ t = raiseError e t' := by
  unfold runCommand at h
  split at h
  · next hb => cases h; exact .inl ⟨hb, rfl⟩
  · split at h
    · next n s' hb => cases h; exact .inr (.inl ⟨n, s', hb, rfl⟩)
    · next st s' hb =>
      cases st with
      | raise e => cases h; exact .inr (.inr ⟨e, s', hb, rfl⟩)
      | fault f => cases h
      | refuse r => cases h

/-- An error changes the result registers and nothing else. -/
theorem raiseError_eq (e : Err) (s : State) :
    raiseError e s = s.setRegs { s.regs with
      status := Status.completed e s.sel.hasTransp s.regs.warnCnt
      errInfo := if e.namesStripe then BitVec.ofNat Config.dimw s.sel.stripe else 0
      outLen := 0 } := rfl

/-- A completion changes the result registers and nothing else. -/
theorem completeOk_eq (n : Nat) (s : State) :
    completeOk n s = s.setRegs { s.regs with
      status := Status.completed .ok s.sel.hasTransp s.regs.warnCnt
      errInfo := 0
      outLen := BitVec.ofNat Config.aw n } := rfl

/-- A start changes the status registers and the running `HAS_TRANSP`, and nothing else. -/
theorem startCommand_eq (s : State) :
    startCommand s = (s.setRegs { s.regs with status := Status.started, errInfo := 0, warnCnt := 0 }).setSel
      { s.sel with hasTransp := false } := rfl

theorem checkPrecond_run (s : State) :
    checkPrecond.run s =
      if s.regs.width.toNat % 8 ≠ 0 ∨ s.regs.height = 0 then .error (.raise .precond) s else .ok () s := by
  unfold checkPrecond
  by_cases h : s.regs.width.toNat % 8 ≠ 0 ∨ s.regs.height = 0
  · rw [if_pos h]; simp only [EStateM.run_bind, EStateM.run_get]; rw [if_pos h]; rfl
  · rw [if_neg h]; simp only [EStateM.run_bind, EStateM.run_get]; rw [if_neg h]; rfl

theorem checkLaunch_run (n : Nat) (s : State) :
    (checkLaunch n).run s =
      if s.addressesFit n then
        if s.regionsDisjoint n then .ok () s else .error (.refuse .regionsOverlap) s
      else .error (.refuse .addressRange) s := by
  unfold checkLaunch
  cases h : s.addressesFit n <;> cases h' : s.regionsDisjoint n <;> simp [h, h']

/-! ## Bit Packer and Bit Unpacker -/

theorem packerWrite_run (v : Byte) (n : Nat) (s : State) :
    (packerWrite v n).run s =
      if 1 ≤ n ∧ n ≤ 8 then
        if s.bp.wcnt ≤ 7 then .ok () (s.setBp (s.bp.writeNbits v n)) else .error (.refuse .packerFull) s
      else .error (.refuse .bitCount) s := by
  unfold packerWrite
  by_cases h : 1 ≤ n ∧ n ≤ 8
  · by_cases h' : s.bp.wcnt ≤ 7 <;> simp [h, h']
  · rw [if_neg h, if_neg h]; rfl

theorem unpackerInit_run (start stop : Nat) (s : State) :
    (unpackerInit start stop).run s = .ok ()
      (s.setBu { s.bu with racc := 0, rcnt := 0, rptr := start, rend := stop, start := start }) := rfl

theorem unpackerFill_run (s : State) :
    unpackerFill.run s =
      if s.bu.rcnt < 8 ∧ s.bu.rptr < s.bu.rend then
        if s.reaches s.bu.rptr then .ok () (s.setBu (s.bu.pull (s.mem.read s.bu.rptr)))
        else .error s.unreached s
      else .ok () s := by
  unfold unpackerFill
  by_cases h : s.bu.rcnt < 8 ∧ s.bu.rptr < s.bu.rend
  · cases h' : s.reaches s.bu.rptr <;> simp [h, readByte_run, h']
  · simp only [EStateM.run_bind, EStateM.run_get]; rw [if_neg h, if_neg h]; rfl

/-- A read of 1 to 8 bits: a fill, then the bits, or `ERR_TRUNC`. -/
theorem readNbits_run {n : Nat} {s t : State} (hn : 1 ≤ n ∧ n ≤ 8) (h : unpackerFill.run s = .ok () t) :
    (readNbits n).run s =
      if t.bu.rcnt < n then .error (.raise .trunc) t
      else .ok (t.bu.take n).result (t.setBu (t.bu.take n)) := by
  unfold readNbits
  rw [if_pos hn]
  by_cases h' : t.bu.rcnt < n
  · simp [h, h']; rfl
  · simp [h, h']

/-! ## Pixels and rows -/

theorem needPixel_run (s : State) :
    needPixel.run s = if s.dp.k < s.npix then .ok () s else .error (.refuse .noPixelLeft) s := by
  unfold needPixel
  by_cases h : s.dp.k < s.npix <;> simp [h, throw, throwThe, MonadExceptOf.throw]
  all_goals rfl

theorem setDp_run (f : Datapath → Datapath) (s : State) : (setDp f).run s = .ok () (s.setDp (f s.dp)) := rfl

theorem setMask_run (f : MaskRegs → MaskRegs) (s : State) :
    (setMask f).run s = .ok () (s.setMask (f s.mask)) := rfl

/-- The pixel write: nothing, or one byte. -/
theorem put_run (k : Nat) (c : Byte) (s : State) :
    (put k c).run s =
      if s.dp.tr = true ∧ c = s.regs.transpColor then .ok () s
      else (writeByte (s.pixelAddr s.dp.fam k) (c + s.regs.palmod)).run s := by
  unfold put
  by_cases h : s.dp.tr = true ∧ c = s.regs.transpColor
  · simp [h]
  · rw [if_neg h]
    simp [h]

theorem beginStripe_run (st : Nat) (f : Family) (tr : Bool) (s : State) :
    (beginStripe st f tr).run s = .ok ()
      ((s.setSel { s.sel with stripe := st }).setDp { s.dp with fam := f, tr := tr, inc := .down, run := 0 }) :=
  rfl

theorem nextByte_run (s : State) :
    nextByte.run s =
      if s.blobEnd ≤ s.mask.mptr then .error (.raise .trunc) s
      else if s.reaches s.mask.mptr then
        .ok (s.mem.read s.mask.mptr) (s.setMask { s.mask with mptr := s.mask.mptr + 1 })
      else .error s.unreached s := by
  unfold nextByte
  by_cases h : s.blobEnd ≤ s.mask.mptr
  · simp [h]; rfl
  · cases h' : s.reaches s.mask.mptr <;> simp [h, readByte_run, h', setMask]

/-- The mask write: one byte, OR-ed with the old one when `MODE.OR` is 1. -/
theorem writeRow_run (y : Nat) (v : Byte) (s : State) :
    (writeRow y v).run s =
      if s.reaches (s.columnAddr y) then
        .ok () (s.setMem (s.mem.write (s.columnAddr y)
          (if s.regs.modeOr then s.mem.read (s.columnAddr y) ||| v else v)))
      else .error s.unreached s := by
  unfold writeRow
  cases h : s.regs.modeOr <;> cases h' : s.reaches (s.columnAddr y) <;>
    simp [h, readByte_run, writeByte_run, h']

end Sys2Proof.Machine
end

