-- ==== Sys2Proof/Laws/PerInstr.lean ====
section
/-! SUPPORT. Per-instruction laws about instructions as syntax. -/

namespace Sys2Proof

theorem bitsOf_length (n v : Nat) : (bitsOf n v).length = n := by
  induction n generalizing v with
  | zero => rfl
  | succ n ih => simp [bitsOf, ih]

theorem packChunks_length (n : Nat) (bits : List Bool) : (packChunks n bits).length = n := by
  induction n generalizing bits with
  | zero => rfl
  | succ n ih => simp [packChunks, ih]

/-- An instruction takes the bytes its bits fill (R79). -/
theorem encode_length (shr : ShiftWidth) (i : Instr) :
    (encode shr i).length = ((encodeBits shr i).length + 7) / 8 := packChunks_length _ _

end Sys2Proof

namespace Sys2Proof.Laws.EncodingFits

/-- Every instruction has at least one byte and at most `longestInstr`. -/
def Statement (i : Instr) : Prop :=
  ∀ shr, 1 ≤ (encode shr i).length ∧ (encode shr i).length ≤ longestInstr

/-- From the number of bits. -/
theorem of_bits {i : Instr} (h : ∀ shr, 1 ≤ (encodeBits shr i).length ∧ (encodeBits shr i).length ≤ 80) :
    Statement i := by
  intro shr
  rw [encode_length]
  have := h shr
  rw [show longestInstr = 10 from rfl]
  omega

/-- From a fixed number of bits, one more than `n`. -/
theorem of_width {i : Instr} (n : Fin 80) (h : ∀ shr, (encodeBits shr i).length = n.val + 1) : Statement i :=
  of_bits fun shr => by have := h shr; omega

theorem encImage : Statement .encImage := of_width 7 fun _ => rfl

theorem decImage : Statement .decImage := of_width 7 fun _ => rfl

theorem encMask : Statement .encMask := of_width 7 fun _ => rfl

theorem decMask : Statement .decMask := of_width 7 fun _ => rfl

theorem bpInit : Statement .bpInit := of_width 7 fun _ => rfl

theorem bpWriteBit (b : Bool) : Statement (.bpWriteBit b) := of_width 15 fun _ => rfl

theorem bpWriteNbits (v : Byte) (n : BitVec 4) : Statement (.bpWriteNbits v n) := of_width 23 fun _ => rfl

theorem bpWriteByte (v : Byte) : Statement (.bpWriteByte v) := of_width 15 fun _ => rfl

theorem bpFlush : Statement .bpFlush := of_width 7 fun _ => rfl

theorem buInit (start : Addr) (stop : BitVec (Config.aw + 1)) : Statement (.buInit start stop) := of_width 79 fun _ => rfl

theorem buFill : Statement .buFill := of_width 7 fun _ => rfl

theorem buReadBit : Statement .buReadBit := of_width 7 fun _ => rfl

theorem buReadNbits (n : BitVec 4) : Statement (.buReadNbits n) := of_width 15 fun _ => rfl

theorem computeShr (s : Dim) : Statement (.computeShr s) := of_width 23 fun _ => rfl

theorem select (s : Dim) : Statement (.select s) := of_width 23 fun _ => rfl

theorem encMaskCol (s : Dim) : Statement (.encMaskCol s) := of_width 23 fun _ => rfl

theorem decMaskCol (s : Dim) (ofs : BitVec 16) : Statement (.decMaskCol s ofs) := of_width 39 fun _ => rfl

theorem encA (s : Dim) : Statement (.encA s) := of_width 23 fun _ => rfl

theorem encA6 (s : Dim) : Statement (.encA6 s) := of_width 23 fun _ => rfl

theorem encB (s : Dim) : Statement (.encB s) := of_width 23 fun _ => rfl

theorem encC (s : Dim) : Statement (.encC s) := of_width 23 fun _ => rfl

theorem decA (s : Dim) : Statement (.decA s) := of_width 23 fun _ => rfl

theorem decA6 (s : Dim) : Statement (.decA6 s) := of_width 23 fun _ => rfl

theorem decB (s : Dim) : Statement (.decB s) := of_width 23 fun _ => rfl

theorem decC (s : Dim) : Statement (.decC s) := of_width 23 fun _ => rfl

theorem decAT (s : Dim) : Statement (.decAT s) := of_width 23 fun _ => rfl

theorem decA6T (s : Dim) : Statement (.decA6T s) := of_width 23 fun _ => rfl

theorem decBT (s : Dim) : Statement (.decBT s) := of_width 23 fun _ => rfl

theorem decCT (s : Dim) : Statement (.decCT s) := of_width 23 fun _ => rfl

theorem typeC_4 : Statement .typeC_4 := of_width 7 fun _ => rfl

theorem typeC_5 : Statement .typeC_5 := of_width 7 fun _ => rfl

theorem typeC_6 : Statement .typeC_6 := of_width 7 fun _ => rfl

theorem typeC_7 : Statement .typeC_7 := of_width 7 fun _ => rfl

theorem typeC_8 : Statement .typeC_8 := of_width 7 fun _ => rfl

theorem typeB_4 : Statement .typeB_4 := of_width 7 fun _ => rfl

theorem typeB_5 : Statement .typeB_5 := of_width 7 fun _ => rfl

theorem typeB_6 : Statement .typeB_6 := of_width 7 fun _ => rfl

theorem typeB_7 : Statement .typeB_7 := of_width 7 fun _ => rfl

theorem typeB_8 : Statement .typeB_8 := of_width 7 fun _ => rfl

theorem typeCT_4 : Statement .typeCT_4 := of_width 7 fun _ => rfl

theorem typeCT_5 : Statement .typeCT_5 := of_width 7 fun _ => rfl

theorem typeCT_6 : Statement .typeCT_6 := of_width 7 fun _ => rfl

theorem typeCT_7 : Statement .typeCT_7 := of_width 7 fun _ => rfl

theorem typeCT_8 : Statement .typeCT_8 := of_width 7 fun _ => rfl

theorem typeBT_4 : Statement .typeBT_4 := of_width 7 fun _ => rfl

theorem typeBT_5 : Statement .typeBT_5 := of_width 7 fun _ => rfl

theorem typeBT_6 : Statement .typeBT_6 := of_width 7 fun _ => rfl

theorem typeBT_7 : Statement .typeBT_7 := of_width 7 fun _ => rfl

theorem typeBT_8 : Statement .typeBT_8 := of_width 7 fun _ => rfl

theorem typeA6_4 : Statement .typeA6_4 := of_width 7 fun _ => rfl

theorem typeA6_5 : Statement .typeA6_5 := of_width 7 fun _ => rfl

theorem typeA6_6 : Statement .typeA6_6 := of_width 7 fun _ => rfl

theorem typeA6_7 : Statement .typeA6_7 := of_width 7 fun _ => rfl

theorem typeA6_8 : Statement .typeA6_8 := of_width 7 fun _ => rfl

theorem typeA6T_4 : Statement .typeA6T_4 := of_width 7 fun _ => rfl

theorem typeA6T_5 : Statement .typeA6T_5 := of_width 7 fun _ => rfl

theorem typeA6T_6 : Statement .typeA6T_6 := of_width 7 fun _ => rfl

theorem typeA6T_7 : Statement .typeA6T_7 := of_width 7 fun _ => rfl

theorem typeA6T_8 : Statement .typeA6T_8 := of_width 7 fun _ => rfl

theorem typeA_4 : Statement .typeA_4 := of_width 7 fun _ => rfl

theorem typeA_5 : Statement .typeA_5 := of_width 7 fun _ => rfl

theorem typeA_6 : Statement .typeA_6 := of_width 7 fun _ => rfl

theorem typeA_7 : Statement .typeA_7 := of_width 7 fun _ => rfl

theorem typeA_8 : Statement .typeA_8 := of_width 7 fun _ => rfl

theorem typeAT_4 : Statement .typeAT_4 := of_width 7 fun _ => rfl

theorem typeAT_5 : Statement .typeAT_5 := of_width 7 fun _ => rfl

theorem typeAT_6 : Statement .typeAT_6 := of_width 7 fun _ => rfl

theorem typeAT_7 : Statement .typeAT_7 := of_width 7 fun _ => rfl

theorem typeAT_8 : Statement .typeAT_8 := of_width 7 fun _ => rfl

theorem aRep : Statement .aRep := of_width 0 fun _ => rfl

theorem aLit (v : Byte) : Statement (.aLit v) := of_bits fun shr => by
  cases shr <;> simp [encodeBits, bitsOf_length, ShiftWidth.toNat]

theorem aDelta (d : Int) : Statement (.aDelta d) := of_width 4 fun _ => rfl

theorem aRun (n : Byte) : Statement (.aRun n) := of_width 12 fun _ => rfl

theorem bRep : Statement .bRep := of_width 0 fun _ => rfl

theorem bLit (v : Byte) : Statement (.bLit v) := of_bits fun shr => by
  cases shr <;> simp [encodeBits, bitsOf_length, ShiftWidth.toNat]

theorem bStep : Statement .bStep := of_width 2 fun _ => rfl

theorem bRev : Statement .bRev := of_width 2 fun _ => rfl

theorem mRep (n : BitVec 7) (v : Byte) : Statement (.mRep n v) := of_width 15 fun _ => rfl

theorem mLit (n : BitVec 7) : Statement (.mLit n) := of_width 7 fun _ => rfl

theorem mRsvLit0 : Statement .mRsvLit0 := of_width 7 fun _ => rfl

theorem mRsvRep0 : Statement .mRsvRep0 := of_width 7 fun _ => rfl

end Sys2Proof.Laws.EncodingFits
end

