-- ==== Sys2Proof/Tests/Slice0.lean ====
section
/-! SUPPORT. Tests of the model: ill-formed operands are refused, every constructor's word (written out from 30_encoding.md)
decodes to it, single steps give the values of 95_test_vectors.md, and each statement's hypotheses are met by a concrete
state (the theorems named `witness_`). -/

namespace Sys2Proof.Tests

set_option Elab.async false

open Sys2Proof.Machine

/-! ## Operands that no encoding admits -/

theorem test_wf_refuses_bit_counts :
    Instr.wf .w4 (.bpWriteNbits 0xFF 0) = false ∧ Instr.wf .w4 (.bpWriteNbits 0xFF 9) = false ∧
    Instr.wf .w4 (.buReadNbits 0) = false ∧ Instr.wf .w4 (.buReadNbits 9) = false := by decide +kernel

theorem test_wf_refuses_wide_literals :
    Instr.wf .w4 (.aLit 16) = false ∧ Instr.wf .w7 (.bLit 128) = false := by decide +kernel

theorem test_wf_refuses_deltas :
    Instr.wf .w4 (.aDelta 0) = false ∧ Instr.wf .w4 (.aDelta 4) = false ∧
    Instr.wf .w4 (.aDelta (-5)) = false := by decide +kernel

theorem test_wf_refuses_zero_counts :
    Instr.wf .w4 (.aRun 0) = false ∧ Instr.wf .w4 (.mRep 0 9) = false ∧ Instr.wf .w4 (.mLit 0) = false := by
  decide +kernel

theorem test_wf_accepts_bounds :
    Instr.wf .w4 (.bpWriteNbits 0xFF 8) = true ∧ Instr.wf .w4 (.buReadNbits 1) = true ∧
    Instr.wf .w4 (.aLit 15) = true ∧ Instr.wf .w8 (.bLit 255) = true ∧ Instr.wf .w4 (.aDelta (-4)) = true ∧
    Instr.wf .w4 (.aRun 255) = true ∧ Instr.wf .w4 (.mRep 127 0) = true ∧ Instr.wf .w4 (.mLit 1) = true := by
  decide +kernel

/-! ## Every constructor's word, written out from the spec -/

/-- Each byte string decodes to the instruction beside it. -/
abbrev Decodes (f : Format) (shr : ShiftWidth) (rows : List (List Byte × Instr)) : Prop :=
  ∀ r ∈ rows, decode f shr r.1 = .ok r.2

/-- R70's table. -/
theorem test_decode_commands : Decodes .cmd .w4
    [([0x01], .encImage), ([0x02], .decImage), ([0x03], .encMask), ([0x04], .decMask)] := by decide +kernel

/-- R71's codes 0 to 4; the operand lines as log 3 lays them out. -/
theorem test_decode_packer_ops : Decodes .bpop .w4
    [([0x00], .bpInit), ([0x01, 0x01], .bpWriteBit true), ([0x02, 0x05, 0x04], .bpWriteNbits 5 4),
      ([0x03, 0xAB], .bpWriteByte 0xAB), ([0x04], .bpFlush)] := by decide +kernel

/-- R72's codes 0 to 3; the operand lines as log 3 lays them out (addresses little-endian). -/
theorem test_decode_unpacker_ops : Decodes .buop .w4
    [([0x00, 0x34, 0x12, 0, 0, 0, 0, 0, 0, 1], .buInit 0x1234 0x100000000), ([0x01], .buFill),
      ([0x02], .buReadBit), ([0x03, 0x03], .buReadNbits 3)] := by decide +kernel

/-- R73's table. -/
theorem test_decode_unit_ops : Decodes .uop .w4
    [([0x00, 2, 1], .computeShr 0x102), ([0x01, 2, 0], .select 2), ([0x02, 3, 0], .encMaskCol 3),
      ([0x03, 1, 0, 0x10, 0x20], .decMaskCol 1 0x2010), ([0x08, 1, 0], .encA 1), ([0x09, 1, 0], .encA6 1),
      ([0x0A, 1, 0], .encB 1), ([0x0B, 1, 0], .encC 1), ([0x10, 1, 0], .decA 1), ([0x11, 1, 0], .decA6 1),
      ([0x12, 1, 0], .decB 1), ([0x13, 1, 0], .decC 1), ([0x14, 1, 0], .decAT 1), ([0x15, 1, 0], .decA6T 1),
      ([0x16, 1, 0], .decBT 1), ([0x17, 1, 0], .decCT 1)] := by decide +kernel

/-- R74's table, families C and B (hexadecimal column). -/
theorem test_decode_type_bytes_bc : Decodes .type .w4
    [([0x0E], .typeC_4), ([0x0F], .typeC_5), ([0x10], .typeC_6), ([0x11], .typeC_7), ([0x12], .typeC_8),
      ([0x18], .typeB_4), ([0x19], .typeB_5), ([0x1A], .typeB_6), ([0x1B], .typeB_7), ([0x1C], .typeB_8),
      ([0x22], .typeCT_4), ([0x23], .typeCT_5), ([0x24], .typeCT_6), ([0x25], .typeCT_7), ([0x26], .typeCT_8),
      ([0x2C], .typeBT_4), ([0x2D], .typeBT_5), ([0x2E], .typeBT_6), ([0x2F], .typeBT_7),
      ([0x30], .typeBT_8)] := by decide +kernel

/-- R74's table, families A6 and A (hexadecimal column). -/
theorem test_decode_type_bytes_a : Decodes .type .w4
    [([0x40], .typeA6_4), ([0x41], .typeA6_5), ([0x42], .typeA6_6), ([0x43], .typeA6_7), ([0x44], .typeA6_8),
      ([0x54], .typeA6T_4), ([0x55], .typeA6T_5), ([0x56], .typeA6T_6), ([0x57], .typeA6T_7),
      ([0x58], .typeA6T_8), ([0x68], .typeA_4), ([0x69], .typeA_5), ([0x6A], .typeA_6), ([0x6B], .typeA_7),
      ([0x6C], .typeA_8), ([0x7C], .typeAT_4), ([0x7D], .typeAT_5), ([0x7E], .typeAT_6), ([0x7F], .typeAT_7),
      ([0x80], .typeAT_8)] := by decide +kernel

/-- R80 to R83: stream order `0`; `1 0 v`; `1 1 f` with f = d + 4; `1 1 0 0 1 N`. -/
theorem test_decode_a_codes : Decodes .acode .w4
    [([0x00], .aRep), ([0x3D], .aLit 15), ([0x0D], .aLit 3), ([0x03], .aDelta (-4)), ([0x17], .aDelta 1),
      ([0x1F], .aDelta 3), ([0x73, 0x00], .aRun 3), ([0xF3, 0x1F], .aRun 255)] := by decide +kernel

/-- R84 to R87: stream order `0`; `1 0 v` (R147's example); `1 1 0`; `1 1 1`. -/
theorem test_decode_b_codes : Decodes .bcode .w8
    [([0x00], .bRep), ([0x25, 0x00], .bLit 9), ([0x03], .bStep), ([0x07], .bRev)] := by decide +kernel

/-- R90 to R92. -/
theorem test_decode_mask_runs : Decodes .mrun .w4
    [([0x84, 0x00], .mRep 4 0), ([0xFF, 0x05], .mRep 127 5), ([0x02, 0x01, 0x02], .mLit 2), ([0x00], .mRsvLit0),
      ([0x80, 0x01], .mRsvRep0)] := by decide +kernel

/-- What is no instruction is refused by name (R70, R71, R73, R93). -/
theorem test_decode_refuses :
    decode .cmd .w4 [0x05] = .error (.illegalCommand 5) ∧ decode .bpop .w4 [0x05] = .error (.neverDriven .bpop 5) ∧
    decode .uop .w4 [0x04] = .error (.neverDriven .uop 4) ∧ decode .uop .w4 [0x18] = .error (.neverDriven .uop 0x18) ∧
    decode .type .w4 [0x01] = .error (.unrecognisedType 1) ∧ decode .type .w4 [0x3C] = .error (.unrecognisedType 60) ∧
    decode .mrun .w4 [0x83] = .error .truncated ∧ decode .acode .w4 [] = .error .truncated := by decide +kernel

/-- The host's table words (log 4): commands, type bytes and selects above 0x0F are told apart by their number. -/
theorem test_table_words :
    decodeTableWord 8 0x02 = some .decImage ∧ decodeTableWord 8 0x7C = some .typeAT_4 ∧
    decodeTableWord 8 0x17 = some (.decCT 0) := by decide +kernel

/-! ## One step on a small state (values from 95_test_vectors.md) -/

/-- An idle engine with a buffer at 0x1000 and a blob region at 0x100. -/
def engine (width height : Dim) (stride blobSize : Addr) (buffer blob : List Byte) : State :=
  { State.reset with
    regs := { Regs.reset with
      pixBase := 0x1000, stride := stride, width := width, height := height, blobBase := 0x100, blobSize := blobSize }
    mem := (Memory.place [] 0x100 blob).place 0x1000 buffer }

/-- The same engine with a command running, so that a single operation reaches memory (R50, log 11). -/
def working (width height : Dim) (stride blobSize : Addr) (buffer blob : List Byte) : State :=
  (engine width height stride blobSize buffer blob).withBusy true

/-- The next state of an outcome, or the reset state. -/
def after : Host.Outcome State Fault Refusal → State
  | .next t => t
  | _ => State.reset

/-- The engine with a transparent colour. -/
def transparent (c : Byte) (s : State) : State := s.setRegs { s.regs with transpEn := true, transpColor := c }

/-- The engine with `MODE.OR` set. -/
def orMode (s : State) : State := s.setRegs { s.regs with modeOr := true }

/-- The engine with a packer. -/
def packing (wacc : BitVec 16) (wcnt : Nat) (wout : List Byte) : State :=
  State.reset.setBp { wacc := wacc, wcnt := wcnt, wout := wout }

/-- The engine with a command running and an unpacker over the blob's bytes from `ofs` on. -/
def unpacking (shr : ShiftWidth) (ofs : Nat) (s : State) : State :=
  (s.setBu { s.bu with rptr := 0x100 + ofs, rend := s.blobEnd, start := 0x100 + ofs }).setDp
    { s.dp with shr := shr } |>.withBusy true

/-- The engine in the middle of a stripe. -/
def painting (k : Nat) (color : Byte) (inc : Dir) (f : Family) : State :=
  (working 8 1 8 0 [] []).setDp { color := color, inc := inc, shr := .w4, k := k, run := 0, fam := f, tr := false }

theorem test_packer_init : (after (exec .bpInit (packing 0x15 6 [1]))).bp = { wacc := 0, wcnt := 0, wout := [] } := by
  decide +kernel

/-- V-BP6's last write. -/
theorem test_packer_write_bit : (after (exec (.bpWriteBit true) (packing 1 7 []))).bp =
    { wacc := 0, wcnt := 0, wout := [0x81] } := by decide +kernel

/-- V-BP5. -/
theorem test_packer_write_nbits : (after (exec (.bpWriteNbits 0xFF 3) (packing 0 0 []))).bp =
    { wacc := 7, wcnt := 3, wout := [] } := by decide +kernel

/-- V-BP2. -/
theorem test_packer_write_byte : (after (exec (.bpWriteByte 0xAB) (packing 0x15 6 []))).bp =
    { wacc := 0x2A, wcnt := 6, wout := [0xD5] } := by decide +kernel

/-- V-BP3 and V-BP9. -/
theorem test_packer_flush : (after (exec .bpFlush (packing 0x2A 6 [0xD5]))).bp.wout = [0xD5, 0x2A] ∧
    (after (exec .bpFlush (packing 0 0 []))).bp.wout = [] := by decide +kernel

theorem test_unpacker_init : (after (exec (.buInit 5 9) State.reset)).bu =
    { racc := 0, rcnt := 0, rptr := 5, rend := 9, start := 5, result := 0 } := by decide +kernel

/-- R107's example: 0x75 with 7 bits, next byte 0x02. -/
theorem test_unpacker_fill : (after (exec .buFill ((working 8 1 8 1 [] [0x02]).setBu
    { racc := 0x75, rcnt := 7, rptr := 0x100, rend := 0x101, start := 0x100, result := 0 }))).bu.racc = 0x175 := by
  decide +kernel

/-- R109's example. -/
theorem test_unpacker_read_bit : (after (exec .buReadBit (State.reset.setBu
    { racc := 0x75, rcnt := 7, rptr := 9, rend := 9, start := 0, result := 0 }))).bu =
    { racc := 0x3A, rcnt := 6, rptr := 9, rend := 9, start := 0, result := 1 } := by decide +kernel

/-- V-BU1, and V-BU7's `ERR_TRUNC`. -/
theorem test_unpacker_read_nbits :
    (after (exec (.buReadNbits 8) (unpacking .w4 0 (engine 8 1 8 3 [] [0x95, 0xEA, 0x02])))).bu.result = 0x95 ∧
    (after (exec (.buReadNbits 3) State.reset)).regs.status.err = .trunc := by decide +kernel

/-- V-SH5 and V-SH1. -/
theorem test_compute_shr :
    (after (exec (.computeShr 0) (working 8 1 8 0 [0, 64, 0, 0, 0, 0, 0, 0] []))).dp.shr = .w7 ∧
    (after (exec (.computeShr 0) (working 8 1 8 0 [200, 0, 0, 0, 0, 0, 0, 0] []))).dp.shr = .w4 := by decide +kernel

/-- R152's examples: B wins over C on a tie; A wins among four equal lengths. -/
theorem test_select :
    ((after (exec (.select 0) (working 8 1 8 0 [0, 1, 2, 3, 4, 5, 6, 7] []))).sel.best.map Best.fam) = [.b] ∧
    ((after (exec (.select 0) (working 8 1 8 0 [5, 5, 5, 5, 5, 5, 5, 5] []))).sel.best.map Best.fam) = [.a] := by
  decide +kernel

/-- V-A1. -/
theorem test_encode_a : (after (exec (.encA 0) (working 8 1 8 0 [5, 6, 6, 2, 15, 15, 15, 11] []))).bp.wout =
    [0x05, 0xD7, 0xE8, 0x19] := by decide +kernel

/-- V-A4: A uses the escape at 13 repeats, A6 never. -/
theorem test_encode_a6 :
    (after (exec (.encA 0) (working 8 2 8 0 (200 :: List.replicate 14 9 ++ [10]) []))).bp.wout =
      [0xC8, 0xE5, 0x6C, 0xB8] ∧
    (after (exec (.encA6 0) (working 8 2 8 0 (200 :: List.replicate 14 9 ++ [10]) []))).bp.wout =
      [0xC8, 0x25, 0x00, 0xB8] := by decide +kernel

/-- R140's example. -/
theorem test_encode_b : (after (exec (.encB 0) (working 8 1 8 0 [0, 1, 2, 3, 4, 5, 6, 7] []))).bp.wout =
    [0x00, 0xDF, 0xB6, 0x0D] := by decide +kernel

/-- R141's example. -/
theorem test_encode_c : (after (exec (.encC 0) (working 8 2 8 0
    [1, 2, 3, 4, 5, 6, 7, 8, 2, 3, 4, 5, 6, 7, 8, 9] []))).bp.wout = [0x01, 0x37, 0x33, 0x33, 0x33] := by
  decide +kernel

/-- Eight destination bytes of `0xEE` with a stream in the blob region. -/
def decoding (shr : ShiftWidth) (height : Dim) (stream : List Byte) : State :=
  unpacking shr 0 (engine 8 height 8 (BitVec.ofNat _ stream.length)
    (List.replicate (8 * height.toNat) 0xEE) stream)

/-- The first `n` bytes of the destination. -/
def dest (n : Nat) (s : State) : List Byte := s.mem.bytes 0x1000 n

/-- V-A10, both spellings of the select. -/
theorem test_decode_a :
    dest 8 (after (exec (.decA 0) (decoding .w4 1 [0x10, 0xCD, 0x98, 0x03, 0x3E]))) =
      [0x10, 0x03, 0xFF, 0xFF, 0xFF, 0xFF, 0xFF, 0x02] ∧
    dest 8 (after (exec (.decA6 0) (decoding .w4 1 [0x10, 0xCD, 0x98, 0x03, 0x3E]))) =
      [0x10, 0x03, 0xFF, 0xFF, 0xFF, 0xFF, 0xFF, 0x02] := by decide +kernel

/-- V-A11, both spellings of the select. -/
theorem test_decode_a_transparent :
    dest 8 (after (exec (.decAT 0) (transparent 255 (decoding .w4 1 [0x10, 0xCD, 0x98, 0x03, 0x3E])))) =
      [0x10, 0x03, 0xEE, 0xEE, 0xEE, 0xEE, 0xEE, 0x02] ∧
    dest 8 (after (exec (.decA6T 0) (transparent 255 (decoding .w4 1 [0x10, 0xCD, 0x98, 0x03, 0x3E])))) =
      [0x10, 0x03, 0xEE, 0xEE, 0xEE, 0xEE, 0xEE, 0x02] := by decide +kernel

/-- R142's and R143's examples. -/
theorem test_decode_b :
    dest 8 (after (exec (.decB 0) (decoding .w8 1 [0x00, 0x5B, 0x00, 0x9F, 0x12, 0x00]))) =
      [0x00, 0xFF, 0xFE, 0x00, 0x01, 0x02, 0x02, 0x09] ∧
    dest 8 (after (exec (.decBT 0) (transparent 2 (decoding .w8 1 [0x00, 0x5B, 0x00, 0x9F, 0x12, 0x00])))) =
      [0x00, 0xFF, 0xFE, 0x00, 0x01, 0xEE, 0xEE, 0x09] := by decide +kernel

/-- R144's and R145's examples. -/
theorem test_decode_c :
    dest 16 (after (exec (.decC 0) (decoding .w4 2 [0x01, 0x37, 0x33, 0x33, 0x33]))) =
      [1, 2, 3, 4, 5, 6, 7, 8, 2, 3, 4, 5, 6, 7, 8, 9] ∧
    dest 16 (after (exec (.decCT 0) (transparent 2 (decoding .w4 2 [0x01, 0x37, 0x33, 0x33, 0x33])))) =
      [1, 0xEE, 3, 4, 5, 6, 7, 8, 0xEE, 3, 4, 5, 6, 7, 8, 9] := by decide +kernel

/-- A record whose type byte is at the blob's start, 0x05 and seven zero bits after it (V-S1's stream; every family reads it
as eight 5s). -/
def record (s : State) : State := transparent 5 s

/-- R175, R176 for every type byte: the capable ones skip the transparent colour 5 and report `HAS_TRANSP`, the opaque ones
write it; `SHR` is the type's. -/
theorem test_type_bytes :
    ∀ f ∈ [Family.a, .a6, .b, .c], ∀ tcap ∈ [false, true], ∀ w ∈ [ShiftWidth.w4, .w5, .w6, .w7, .w8],
      let t := after (exec (typeInstr f tcap w) (record (working 8 1 8 3 [] [0, 5, 0])))
      t.dp.shr = w ∧ t.sel.hasTransp = tcap ∧ dest 8 t = List.replicate 8 (if tcap then 0 else 5) := by
  decide +kernel

/-- Examples of R136, R137, R138 (with its wrap) and R139. -/
theorem test_a_codes :
    (after (exec .aRep (painting 1 5 .down .a))).mem.read 0x1001 = 5 ∧
    (after (exec (.aLit 15) (painting 7 5 .down .a))).dp.color = 15 ∧
    (after (exec (.aDelta (-4)) (painting 1 3 .down .a))).dp.color = 255 ∧
    (after (exec (.aDelta 3) (painting 1 255 .down .a))).mem.read 0x1001 = 2 ∧
    dest 8 (after (exec (.aRun 3) (painting 4 9 .down .a))) = [0, 0, 0, 0, 9, 9, 9, 0] ∧
    (after (exec (.aRun 200) (painting 1 9 .down .a))).dp.k = 8 ∧
    (after (exec (.aRun 0) (painting 1 9 .down .a))).regs.status.err = .format := by decide +kernel

/-- Examples of R146 to R149 (with the wraps of R148). -/
theorem test_b_codes :
    (after (exec .bRep (painting 1 2 .up .b))).mem.read 0x1001 = 2 ∧
    (after (exec (.bLit 9) (painting 1 2 .up .b))).dp.inc = .down ∧
    (after (exec .bStep (painting 1 0 .down .b))).dp.color = 255 ∧
    (after (exec .bStep (painting 1 255 .up .b))).dp.color = 0 ∧
    (after (exec .bRev (painting 1 0 .down .b))).dp.color = 1 ∧
    (after (exec .bRev (painting 1 0 .down .b))).dp.inc = .up := by decide +kernel

/-- R50: while no command runs nothing is read from memory or written to it. -/
theorem test_no_command_running :
    exec (.computeShr 0) (engine 8 1 8 0 [] []) = .refused .noCommandRunning ∧
    exec (.mRep 1 7) (engine 8 1 8 0 [] []) = .refused .noCommandRunning := ⟨rfl, rfl⟩

/-- Log 3: a count of more than 4 bits is no operand. -/
theorem test_decode_wide_count : decode .buop .w4 [0x03, 0x10] = .error (.operandTooWide .buop) := by decide +kernel

/-- R177's example: family C, `HEIGHT` 4, `STRIDE` 16, pixel 6 at `PIX_BASE` + 33. -/
theorem test_put_column_major :
    (after (exec .bRep ((working 8 4 16 0 [] []).setDp
      { color := 7, inc := .down, shr := .w4, k := 6, run := 0, fam := .c, tr := false }))).mem = [(0x1021, 7)] := by
  decide +kernel

/-- V-S4's record and R190's second example. -/
theorem test_encode_mask_column :
    (after (exec (.encMaskCol 0) (working 8 7 1 0 [0, 0, 0, 0, 9, 9, 9] []))).mask.out = [0x84, 0x00, 0x83, 0x09] ∧
    (after (exec (.encMaskCol 0) (working 8 7 1 0 [1, 2, 3, 3, 3, 3, 4] []))).mask.out =
      [0x02, 0x01, 0x02, 0x84, 0x03, 0x01, 0x04] := by decide +kernel

/-- V-S4, in overwrite and in OR mode, with the record at `BLOB_BASE` (an `ofs` of 0: log 27). -/
theorem test_decode_mask_column :
    dest 7 (after (exec (.decMaskCol 0 0) (working 8 7 1 4 (List.replicate 7 0x11) [0x84, 0x00, 0x83, 0x09]))) =
      [0, 0, 0, 0, 9, 9, 9] ∧
    dest 7 (after (exec (.decMaskCol 0 0) (orMode (working 8 7 1 4 (List.replicate 7 0x12)
      [0x84, 0x00, 0x83, 0x09])))) = [0x12, 0x12, 0x12, 0x12, 0x1B, 0x1B, 0x1B] := by decide +kernel

/-- R193's examples with `HEIGHT` 3: `85 07` clipped, `03 01 02` truncated, `05 01 02 03` clipped, reserved headers. -/
theorem test_mask_runs :
    dest 3 (after (exec (.mRep 5 7) (working 8 3 1 0 [] []))) = [7, 7, 7] ∧
    (after (exec (.mLit 3) ((working 8 3 1 2 [] [1, 2]).setMask { State.reset.mask with mptr := 0x100 }))).mask.mptr =
      0x102 ∧
    dest 3 (after (exec (.mLit 5) ((working 8 3 1 3 [] [1, 2, 3]).setMask
      { State.reset.mask with mptr := 0x100 }))) = [1, 2, 3] ∧
    (after (exec .mRsvLit0 (working 8 3 1 0 [] []))).regs.status.err = .format ∧
    (after (exec .mRsvRep0 (working 8 3 1 0 [] []))).regs.status.err = .format := by decide +kernel

/-- Logs 3, 28 and 29: a byte after the last operand, a repeat run with no row left, a lone `SELECT`. -/
theorem test_model_choices :
    decode .bpop .w4 [4, 0xFF] = .ok .bpFlush ∧
    (after (step (((working 8 1 1 2 [] [0x83, 9]).setMask { State.reset.mask with mptr := 0x100, y := 1 }).setBus
      [.nextRun]))).mask = { State.reset.mask with mptr := 0x102, y := 1 } ∧
    (after (exec (.select 0) (working 8 1 8 0 (List.replicate 8 5) []))).sel.best =
      [{ stripe := 0, fam := .a, shr := .w4, stream := [5, 0] }] := by decide +kernel

/-- V-S1, opaque and with `TRANSP` = (1, 5). -/
theorem test_encode_image :
    (after (exec .encImage (engine 8 1 8 7 (List.replicate 8 5) []))).mem.bytes 0x100 7 =
      [4, 0, 0, 0, 0x68, 5, 0] ∧
    (after (exec .encImage (transparent 5 (engine 8 1 8 7 (List.replicate 8 5) [])))).mem.read 0x104 = 0x7C := by
  decide +kernel

/-- V-S3's blob with its transparent colour, and R174's example. -/
theorem test_decode_image :
    dest 8 (after (exec .decImage (transparent 7 (engine 8 1 8 11 (List.replicate 8 0xEE)
      [4, 0, 0, 0, 0x7C, 0x01, 0xB7, 0x1B, 0xF7, 0xAF, 0x0B])))) = [1, 2, 0xEE, 3, 4, 0xEE, 5, 6] ∧
    readRegister (after (exec .decImage (engine 16 1 16 15 (List.replicate 16 0xEE)
      [8, 0, 0, 0, 12, 0, 0, 0, 1, 5, 0, 0, 0x68, 5, 0]))) 4 = 0x202 := by decide +kernel

/-- R194's example. -/
theorem test_encode_mask :
    (after (exec .encMask (engine 24 4 3 15 [0, 255, 0, 0, 255, 1, 0, 255, 0, 0, 15, 1] []))).mem.bytes 0x100 15 =
      [0, 0, 6, 0, 10, 0, 0x83, 0xFF, 1, 0x0F, 4, 0, 1, 0, 1] := by decide +kernel

/-- R196's example, in both modes. -/
theorem test_decode_mask :
    dest 12 (after (exec .decMask (engine 24 4 3 15 (List.replicate 12 0x11)
      [0, 0, 6, 0, 10, 0, 0x83, 0xFF, 1, 0x0F, 4, 0, 1, 0, 1]))) = [0, 255, 0, 0, 255, 1, 0, 255, 0, 0, 15, 1] ∧
    dest 12 (after (exec .decMask (orMode (engine 24 4 3 15 (List.replicate 12 0x11)
      [0, 0, 6, 0, 10, 0, 0x83, 0xFF, 1, 0x0F, 4, 0, 1, 0, 1])))) =
      [0x11, 0xFF, 0x11, 0x11, 0xFF, 0x11, 0x11, 0xFF, 0x11, 0x11, 0x1F, 0x11] := by decide +kernel

/-! ## The statements' hypotheses are met -/

/-- The outcome is a next state: the hypothesis `o = .next (after o)`, in a form that is decided by evaluation. -/
def isNext : Host.Outcome State Fault Refusal → Bool
  | .next _ => true
  | _ => false

/-- The outcome is a next state. -/
abbrev GoesOn (o : Host.Outcome State Fault Refusal) : Prop := isNext o = true

/-- The host's words run as the first instruction after reset (log 2, log 4): a command on the reset registers completes
with `ERR_PRECOND` (R213, `HEIGHT` 0); the type byte 0x7C runs its decoder; the select 0x17 and the header 0x81 run. -/
theorem test_with_fetch_word :
    (after (step (State.reset.withFetchWord 8 0x02))).regs.status.err = .precond ∧
    (after (step (State.reset.withFetchWord 8 0x7C))).sel.hasTransp = true ∧
    isNext (step (State.reset.withFetchWord 8 0x17)) = true ∧
    isNext (step (State.reset.withFetchWord 8 0x81)) = true := by decide +kernel

theorem goesOn_iff (o : Host.Outcome State Fault Refusal) : GoesOn o ↔ o = .next (after o) := by
  cases o <;> simp [GoesOn, isNext, after]

theorem witness_decode_of_encode :
    Instr.wf .w4 (.aLit 15) = true ∧ Instr.wf .w4 (.aDelta (-4)) = true ∧ Instr.wf .w4 (.aDelta 3) = true ∧
    Instr.wf .w8 (.bLit 255) = true ∧ Instr.wf .w4 (.mRep 127 9) = true ∧ Instr.wf .w4 .encImage = true := by decide

theorem witness_decode_cuts_instruction :
    Instr.wf .w4 (.aRun 1) = true ∧ decodeBits .acode .w4 (encodeBits .w4 (.aRun 1) ++ [true]) =
      .ok (.aRun 1, [true]) := by decide

theorem witness_stream_codes_cover :
    (13 ≤ (List.replicate 13 true).length) ∧
    List.replicate 13 true = encodeBits .w4 (.aDelta 3) ++ List.replicate 8 true ∧
    List.replicate 13 true = encodeBits .w4 .bRev ++ List.replicate 10 true ∧
    Instr.wf .w4 (.aDelta 3) = true ∧ Instr.wf .w4 .bRev = true := by decide

theorem witness_step_runs_selected :
    (State.reset.setBus [.bpop [4]]).bus = .bpop [4] :: [] ∧ decode .bpop State.reset.dp.shr [4] = .ok .bpFlush ∧
    decode .buop State.reset.dp.shr [2] = .ok .buReadBit ∧
    decode .uop State.reset.dp.shr [0x17, 1, 0] = .ok (.decCT 1) ∧
    decode .cmd State.reset.dp.shr [(0xFFFFFF04 : Word).setWidth 8] = .ok .decMask := by decide

/-- A Family A code at the cursor whose last bit is the source's last, and one whose bits run out. -/
theorem witness_step_runs_stream_code :
    (∃ s : State, s.bus = .nextACode :: [] ∧ s.Inv ∧ s.Running ∧ s.bu.rend ≤ Config.addrSpace ∧
      decodeBits .acode s.dp.shr s.pending = .ok (.aDelta 3, [false, false, false])) ∧
    (∃ s : State, s.bus = .nextBCode :: [] ∧ s.Inv ∧ s.Running ∧ s.bu.rend ≤ Config.addrSpace ∧
      decodeBits .bcode s.dp.shr s.pending = .ok (.bRev, [true, true, false, false, false])) ∧
    (∃ s : State, s.bus = .nextACode :: [] ∧ s.Inv ∧ s.Running ∧ s.bu.rend ≤ Config.addrSpace ∧
      decodeBits .acode s.dp.shr s.pending = .error .truncated) :=
  ⟨⟨(unpacking .w4 0 (engine 8 1 8 1 [] [0x1F])).setBus [.nextACode], by decide +kernel⟩,
    ⟨(unpacking .w4 0 (engine 8 1 8 1 [] [0x1F])).setBus [.nextBCode], by decide +kernel⟩,
    ⟨(unpacking .w4 0 (engine 8 1 8 1 [] [0x13])).setBus [.nextACode], by decide +kernel⟩⟩

/-- A repeat run that ends at the blob's end, a reserved header as the blob's last byte, no byte left, and a repeat header
without its value byte (V-M22). -/
theorem witness_step_runs_mask_run :
    (∃ s : State, s.bus = .nextRun :: [] ∧ s.Running ∧ s.blobEnd ≤ Config.addrSpace ∧
      decode .mrun s.dp.shr (s.mem.bytes s.mask.mptr (s.blobEnd - s.mask.mptr)) = .ok (.mRep 3 9)) ∧
    (∃ s : State, s.bus = .nextRun :: [] ∧ s.Running ∧ s.blobEnd ≤ Config.addrSpace ∧
      decode .mrun s.dp.shr (s.mem.bytes s.mask.mptr (s.blobEnd - s.mask.mptr)) = .ok .mRsvRep0) ∧
    (∃ s : State, s.bus = .nextRun :: [] ∧ s.Running ∧ s.blobEnd ≤ Config.addrSpace ∧ s.blobEnd ≤ s.mask.mptr) ∧
    (∃ s : State, s.bus = .nextRun :: [] ∧ s.Running ∧ s.blobEnd ≤ Config.addrSpace ∧ (3 : BitVec 7) ≠ 0 ∧
      s.mask.mptr + 1 = s.blobEnd ∧ s.mem.read s.mask.mptr = 0x80 ||| (3 : BitVec 7).setWidth 8) :=
  ⟨⟨((working 8 1 1 2 [] [0x83, 9]).setMask { State.reset.mask with mptr := 0x100 }).setBus [.nextRun],
      by decide +kernel⟩,
    ⟨((working 8 1 1 1 [] [0x80]).setMask { State.reset.mask with mptr := 0x100 }).setBus [.nextRun],
      by decide +kernel⟩,
    ⟨((working 8 1 1 1 [] [0x80]).setMask { State.reset.mask with mptr := 0x101 }).setBus [.nextRun],
      by decide +kernel⟩,
    ⟨((working 8 1 1 1 [] [0x83]).setMask { State.reset.mask with mptr := 0x100 }).setBus [.nextRun],
      by decide +kernel⟩⟩

/-- An entry one byte short; an entry equal to the blob's size; an entry at the blob's last byte, recognised and not. -/
theorem witness_step_runs_type_byte :
    (∃ s : State, s.bus = .nextType :: [] ∧ s.Running ∧ s.blobEnd ≤ Config.addrSpace ∧
      s.regs.blobSize.toNat < 4 * s.sel.stripe + 4) ∧
    (∃ s : State, s.bus = .nextType :: [] ∧ s.Running ∧ s.blobEnd ≤ Config.addrSpace ∧
      4 * s.sel.stripe + 4 ≤ s.regs.blobSize.toNat ∧ s.regs.blobSize.toNat ≤ s.tableEntry) ∧
    (∃ s : State, s.bus = .nextType :: [] ∧ s.Running ∧ s.blobEnd ≤ Config.addrSpace ∧
      4 * s.sel.stripe + 4 ≤ s.regs.blobSize.toNat ∧ s.tableEntry < s.regs.blobSize.toNat ∧
      s.mem.read (s.regs.blobBase.toNat + s.tableEntry) = typeByte .a true .w4) ∧
    (∃ s : State, s.bus = .nextType :: [] ∧ s.Running ∧ s.blobEnd ≤ Config.addrSpace ∧
      4 * s.sel.stripe + 4 ≤ s.regs.blobSize.toNat ∧ s.tableEntry < s.regs.blobSize.toNat ∧
      decodeType (s.mem.read (s.regs.blobBase.toNat + s.tableEntry)) = none) :=
  ⟨⟨(working 8 1 8 3 [] [4, 0, 0]).setBus [.nextType], by decide +kernel⟩,
    ⟨(working 8 1 8 5 [] [5, 0, 0, 0, 0x7C]).setBus [.nextType], by decide +kernel⟩,
    ⟨(working 8 1 8 5 [] [4, 0, 0, 0, 0x7C]).setBus [.nextType], by decide +kernel⟩,
    ⟨(working 8 1 8 5 [] [4, 0, 0, 0, 0x01]).setBus [.nextType], by decide +kernel⟩⟩

theorem witness_idle_and_refused :
    State.reset.bus = [] ∧ ¬ IsCommand .bRep ∧ ¬ State.reset.Running ∧ GoesOn (exec .bpFlush State.reset) ∧
    ¬ IsCommand .bpFlush ∧ (0x3 : Word).toNat % 4 ≠ 0 ∧
    decode .bpop State.reset.dp.shr [5] = .error (.neverDriven .bpop 5) ∧
    decode .buop State.reset.dp.shr [] = .error .truncated ∧
    decode .uop State.reset.dp.shr [0x18] = .error (.neverDriven .uop 0x18) := by decide

theorem witness_register_write :
    State.reset.regs.status.busy = false ∧ ((0x18, 0x1FF) : Word × Word) ∈ [(0x14, 0xFFFF), (0x18, 0x1FF)] ∧
    readRegister (after (step (State.reset.setBus [.regWrite 0x18 0xFFFFFFFF]))) 0x18 = 0x1FF := by decide

/-- A state in which every register holds another value. -/
def distinctRegs : State := State.reset.setRegs
  { status := Status.completed .range true 1, pixBase := 0x11111111, stride := 0x22222222, width := 0x3333
    height := 0x4444, transpColor := 0x55, transpEn := true, palmod := 0x66, blobBase := 0x77777777
    blobSize := 0x88888888, outLen := 0x99999999, modeOr := true, errInfo := 0xAAAA, warnCnt := 0xBBBB
    loglevel := 0xCC }

/-- The table of R30, offset by offset from `CMD` at 0x00; the last offset, 0x3C, is reserved. -/
theorem test_register_map :
    ([0x00, 0x04, 0x08, 0x0C, 0x10, 0x14, 0x18, 0x1C, 0x20, 0x24, 0x28, 0x2C, 0x30, 0x34, 0x38, 0x3C] : List Word).map
        (readRegister distinctRegs) =
      [0, 0x362, 0x11111111, 0x22222222, 0x3333, 0x4444, 0x155, 0x66, 0x77777777, 0x88888888, 0x99999999, 1, 0xAAAA,
        0xBBBB, 0xCC, 0] := by decide

/-- `STRIDE` and `LOGLEVEL` for the reads of the read/write registers, `STATUS` and `WARN_CNT` for the read-only ones. -/
theorem witness_register_reads :
    ((0x0C : Word), distinctRegs.regs.stride.toNat) ∈
      [((0x08 : Word), distinctRegs.regs.pixBase.toNat), (0x0C, distinctRegs.regs.stride.toNat)] ∧
    ((0x38 : Word), distinctRegs.regs.loglevel.toNat) ∈ [((0x38 : Word), distinctRegs.regs.loglevel.toNat)] ∧
    ((0x34 : Word), distinctRegs.regs.warnCnt.toNat) ∈
      [((0x30 : Word), distinctRegs.regs.errInfo.toNat), (0x34, distinctRegs.regs.warnCnt.toNat)] ∧
    (0x04 : Word).toNat % 4 = 0 ∧ (0x34 : Word).toNat % 4 = 0 ∧
    distinctRegs.regs.status = Status.completed .range true 1 := by decide

/-- A state whose status shows a running command. -/
def busyState : State := State.reset.setRegs { Regs.reset with status := Status.started }

theorem witness_busy_writes_ignored :
    busyState.regs.status.busy = true ∧ (0x38 : Word).toNat % 4 = 0 ∧ (0 : Word).toNat % 4 = 0 ∧
    IsCommand .encImage := by decide

theorem witness_reserved_offsets :
    (0x3C : Word).toNat % 4 = 0 ∧ 0x3C ≤ (0x3C : Word).toNat ∧ (0x28 : Word) ∈ [(0x04 : Word), 0x28, 0x30, 0x34] ∧
    (0x28 : Word).toNat % 4 = 0 := by decide

theorem witness_illegal_opcode :
    State.reset.regs.status.busy = false ∧ (0x05 : Word).toNat % 256 ∉ [1, 2, 3, 4] ∧
    (0x100 : Word).toNat % 256 ∉ [1, 2, 3, 4] := by decide

/-- A packer write and a command from states with the invariant. -/
theorem witness_invariant_kept :
    (packing 0x15 6 [1]).Inv ∧
    GoesOn (step ((packing 0x15 6 [1]).setBus [.bpop [3, 0xAB]])) ∧
    ((engine 8 1 8 7 (List.replicate 8 5) []).setBus [.regWrite 0 1]).Inv ∧
    GoesOn (step ((engine 8 1 8 7 (List.replicate 8 5) []).setBus [.regWrite 0 1])) := by decide +kernel

theorem witness_accounting_error :
    ((engine 8 1 8 7 (List.replicate 8 5) []).setBus [.regWrite 0 1]).regs.status.err ≠ .acct ∧
    GoesOn (step ((engine 8 1 8 7 (List.replicate 8 5) []).setBus [.regWrite 0 1])) := by decide +kernel

theorem witness_command_depends_on_arguments :
    IsCommand .decImage ∧ (engine 8 1 8 3 [] []).regs.status.busy = false ∧
    (let s := (painting 5 9 .up .c).withBusy false;
      s.regs.status.busy = false ∧
        s.regs.finished .ok false 0 0 0 = (engine 8 1 8 0 [] []).regs.finished .ok false 0 0 0 ∧
        s.mem = (engine 8 1 8 0 [] []).mem ∧ s ≠ engine 8 1 8 0 [] []) := by
  decide

theorem witness_little_endian :
    (working 8 1 8 0 [] []).Running ∧ 0xFFFFFFFE + 2 ≤ Config.addrSpace ∧ 0xFFFFFFFC + 4 ≤ Config.addrSpace :=
  ⟨rfl, by simp [Config.addrSpace_eq]⟩

theorem witness_packer_writes :
    (packing 0x7F 7 []).bp.ok ∧ 1 ≤ (1 : BitVec 4).toNat ∧ (8 : BitVec 4).toNat ≤ 8 := by decide

theorem witness_packer_lengths :
    ∀ w ∈ [((0xFF : Byte), (1 : BitVec 4)), (0xAB, 8)], 1 ≤ w.2.toNat ∧ w.2.toNat ≤ 8 := by simp

theorem witness_packer_refusals :
    (0 : BitVec 4).toNat = 0 ∧ 8 < (9 : BitVec 4).toNat ∧ 7 < (packing 0 8 []).bp.wcnt := by decide

theorem witness_unpacker_fill :
    (unpacking .w4 0 (engine 8 1 8 1 [] [5])).bu.ok ∧ (unpacking .w4 0 (engine 8 1 8 1 [] [5])).Running ∧
    (unpacking .w4 0 (engine 8 1 8 1 [] [5])).bu.rend ≤ Config.addrSpace := by decide

/-- Exactly the bits asked for, and one too few. -/
theorem witness_unpacker_reads :
    (unpacking .w4 0 (engine 8 1 8 1 [] [5])).bu.ok ∧ (unpacking .w4 0 (engine 8 1 8 1 [] [5])).Running ∧
    (unpacking .w4 0 (engine 8 1 8 1 [] [5])).bu.rend ≤ Config.addrSpace ∧
    8 ≤ (unpacking .w4 0 (engine 8 1 8 1 [] [5])).pending.length ∧
    (working 8 1 8 0 [] []).bu.ok ∧ (working 8 1 8 0 [] []).Running ∧
    (working 8 1 8 0 [] []).bu.rend ≤ Config.addrSpace ∧ (working 8 1 8 0 [] []).pending.length < 1 := by decide +kernel

theorem witness_reads_mirror_writes :
    (working 8 1 8 2 [] (packBits (writtenBits [(1, 1), (5, 4), (0xAB, 8)]))).Running ∧ (∀ w ∈ [((1 : Byte), (1 : BitVec 4)), (5, 4), (0xAB, 8)], 1 ≤ w.2.toNat ∧ w.2.toNat ≤ 8) ∧
    (0x100 : Word).toNat + (packBits (writtenBits [(1, 1), (5, 4), (0xAB, 8)])).length ≤ Config.addrSpace ∧
    (working 8 1 8 2 [] (packBits (writtenBits [(1, 1), (5, 4), (0xAB, 8)]))).mem.bytes 0x100
      (packBits (writtenBits [(1, 1), (5, 4), (0xAB, 8)])).length =
      packBits (writtenBits [(1, 1), (5, 4), (0xAB, 8)]) := by
  have h : (packBits (writtenBits [(1, 1), (5, 4), (0xAB, 8)])).length = 2 := by decide
  exact ⟨rfl, by simp, by rw [h]; simp [Config.addrSpace_eq], by decide +kernel⟩

/-- The last pixel of a stripe is still to come, the direction either way. -/
theorem witness_one_pixel_codes :
    (painting 7 5 .down .a).Inv ∧ (painting 7 5 .down .a).Running ∧ (painting 7 5 .down .a).dp.k < (painting 7 5 .down .a).npix ∧
    (painting 7 5 .down .a).nextAddr < Config.addrSpace ∧ (painting 7 5 .down .a).dp.inc = .down ∧
    (painting 7 5 .up .c).Inv ∧ (painting 7 5 .up .c).Running ∧ (painting 7 5 .up .c).dp.k < (painting 7 5 .up .c).npix ∧
    (painting 7 5 .up .c).nextAddr < Config.addrSpace ∧ (painting 7 5 .up .c).dp.inc = .up := by decide +kernel

theorem witness_run_length_escape :
    (255 : Byte) ≠ 0 ∧ (painting 1 5 .down .a).Inv ∧ (painting 1 5 .down .a).Running ∧
    ∀ k < (painting 1 5 .down .a).npix, (painting 1 5 .down .a).dp.k ≤ k →
      (painting 1 5 .down .a).pixelAddr (painting 1 5 .down .a).dp.fam k < Config.addrSpace := by decide +kernel

/-- No pixel left; no command running; and a pixel whose address is the first one past the space. -/
theorem witness_one_pixel_code_stops :
    (painting 8 5 .down .a).npix ≤ (painting 8 5 .down .a).dp.k ∧
    (let s := (painting 1 5 .down .a).withBusy false;
      s.dp.k < s.npix ∧ ¬ s.Skips (nextColor s.dp.color s.dp.inc .bStep).1 ∧ ¬ s.Running) ∧
    (let s := (painting 1 5 .down .a).setRegs { (painting 1 5 .down .a).regs with pixBase := 0xFFFFFFFF };
      s.dp.k < s.npix ∧ ¬ s.Skips (nextColor s.dp.color s.dp.inc .bStep).1 ∧ s.Running ∧
        Config.addrSpace ≤ s.nextAddr) := by
  decide +kernel

theorem witness_stripe_in_space :
    (working 8 2 8 0 [1, 2, 3] []).StripeReachable .a 0 ∧ (working 8 2 8 0 [1, 2, 3] []).StripeReachable .c 0 ∧
    (working 8 2 8 0 [1, 2, 3] []).regs.height ≠ 0 := by decide +kernel

theorem witness_stripe_encoders :
    (working 8 1 8 0 [5, 6, 6, 2, 15, 15, 15, 11] []).StripeReachable .a 0 ∧
    (working 8 1 8 0 [5, 6, 6, 2, 15, 15, 15, 11] []).regs.height ≠ 0 ∧
    stripeOf (working 8 1 8 0 [5, 6, 6, 2, 15, 15, 15, 11] []).picture 1 .a 0 =
      5 :: [6, 6, 2, 15, 15, 15, 11] := by decide +kernel

/-- The codes of V-A10. -/
theorem witness_stripe_decoders_a :
    let s := decoding .w4 1 [0x10, 0xCD, 0x98, 0x03, 0x3E]
    let codes : List Instr := [.aLit 3, .aDelta (-4), .aRun 3, .aRep, .aDelta 3]
    s.StripeReady .a 0 codes ∧ Covers (s.npix - 1) codes ∧
      s.pending = streamOf s.dp.shr 0x10 codes ++ [false, false] := by decide +kernel

/-- A run longer than the stripe (V-A13). -/
theorem witness_stripe_decoders_clipped :
    let s := decoding .w4 1 [0x09, 0x13, 0x19]
    s.StripeReady .a6 0 [.aRun 200] ∧ Covers (s.npix - 1) [.aRun 200] ∧
      s.pending = streamOf s.dp.shr 9 [.aRun 200] ++ [false, false, false] := by decide +kernel

/-- The codes of R142's example. -/
theorem witness_stripe_decoders_b :
    let s := decoding .w8 1 [0x00, 0x5B, 0x00, 0x9F, 0x12, 0x00]
    let codes : List Instr := [.bStep, .bStep, .bLit 0, .bRev, .bStep, .bRep, .bLit 9]
    s.StripeReady .b 0 codes ∧ Covers (s.npix - 1) codes ∧
      s.pending = streamOf s.dp.shr 0 codes ++ s.pending.drop (streamOf s.dp.shr 0 codes).length := by
  decide +kernel

/-- V-A16 (no first pixel), R178's example (one pixel, then no bit) and V-A14 (`RUN 0`). -/
theorem witness_stripe_decoders_stop :
    (decoding .w4 1 []).pending.length < 8 ∧
    (let s := decoding .w4 1 [0x09];
      s.StripeReady .a 0 [] ∧ pixelCount [] < s.npix - 1 ∧ s.pending = streamOf s.dp.shr 9 [] ++ [] ∧
        decodeBits (codeFormat .a) s.dp.shr [] = .error .truncated) ∧
    (let s := decoding .w4 1 [0x09, 0x13, 0x00];
      s.StripeReady .a 0 [] ∧ pixelCount [] < s.npix - 1 ∧
        s.pending = streamOf s.dp.shr 9 [] ++ (encodeBits s.dp.shr (.aRun 0) ++ [false, false, false])) := by
  decide +kernel

/-- V-S1's record, as Family A transparency-capable and as Family C opaque. -/
theorem witness_type_bytes_dispatch :
    (let s := working 8 1 8 3 [] [0x7C, 5, 0];
      let codes : List Instr := [.aRep, .aRep, .aRep, .aRep, .aRep, .aRep, .aRep];
      (s.dispatched true .w4).StripeReady .a s.sel.stripe codes ∧ Covers (s.npix - 1) codes ∧
        (s.dispatched true .w4).pending = streamOf .w4 5 codes ++ [false]) ∧
    (let s := working 8 1 8 3 [] [0x12, 5, 0];
      let codes : List Instr := [.bRep, .bRep, .bRep, .bRep, .bRep, .bRep, .bRep];
      (s.dispatched false .w8).StripeReady .c s.sel.stripe codes ∧ Covers (s.npix - 1) codes ∧
        (s.dispatched false .w8).pending = streamOf .w8 5 codes ++ [false]) := by decide +kernel

theorem witness_put_colors :
    (engine 8 1 8 0 [] []).Inv ∧ 8 ≤ (engine 8 1 8 0 [] []).regs.stride.toNat ∧
    (engine 8 1 8 0 [] []).regs.height ≠ 0 ∧ [(7 : Byte), 9].length ≤ (engine 8 1 8 0 [] []).npix ∧
    [(7 : Byte), 9][1]? = some 9 := by decide

/-- V-A1 encoded, and its stream as the source of a decode elsewhere. -/
theorem witness_stripe_round_trip :
    let s := working 8 1 8 0 [5, 6, 6, 2, 15, 15, 15, 11] []
    let t := after (exec (encoderInstr .a 0) s)
    let r := decoding .w4 1 [0x05, 0xD7, 0xE8, 0x19]
    s.regs.height ≠ 0 ∧ s.StripeReachable .a 0 ∧ s.dp.shr = leastWidth (stripeOf s.picture 1 .a 0).tail ∧
      GoesOn (exec (encoderInstr .a 0) s) ∧ r.StripeReady .a 0 [] ∧ r.regs.height = s.regs.height ∧
      8 ≤ r.regs.stride.toNat ∧ r.regs.palmod = 0 ∧ r.dp.shr = s.dp.shr ∧
      r.pending = streamBits t.bp.wout := by decide +kernel

theorem witness_escape_never_longer :
    let s := working 8 2 8 0 (200 :: List.replicate 14 9 ++ [10]) []
    s.regs.height ≠ 0 ∧ s.StripeReachable .a 0 ∧ GoesOn (exec (.encA 0) s) ∧
      GoesOn (exec (.encA6 0) s) := by decide +kernel

theorem witness_select :
    let s := working 8 1 8 0 [0, 1, 2, 3, 4, 5, 6, 7] []
    s.regs.height ≠ 0 ∧ s.StripeReachable .a 0 ∧ GoesOn (exec (.select 0) s) := by
  decide +kernel

theorem witness_mask_repeat_run :
    (127 : BitVec 7) ≠ 0 ∧ (working 8 3 1 0 [] []).Running ∧ ∀ y < (working 8 3 1 0 [] []).regs.height.toNat,
      (working 8 3 1 0 [] []).columnAddr y < Config.addrSpace := by decide

/-- The payload ends exactly at the blob's end. -/
theorem witness_mask_literal_run :
    let s := (working 8 3 1 3 [] [1, 2, 3]).setMask { State.reset.mask with mptr := 0x100 }
    (5 : BitVec 7) ≠ 0 ∧ s.Inv ∧ s.Running ∧
      (∀ y < s.regs.height.toNat, s.columnAddr y < Config.addrSpace ∧
        (s.columnAddr y < s.mask.mptr ∨ s.blobEnd ≤ s.columnAddr y)) ∧
      s.mask.mptr + s.clippedRows 5 ≤ s.blobEnd ∧ s.blobEnd ≤ Config.addrSpace := by decide +kernel

/-- R193's `03 01 02`. -/
theorem witness_mask_literal_run_truncated :
    let s := (working 8 3 1 2 [] [1, 2]).setMask { State.reset.mask with mptr := 0x100 }
    (3 : BitVec 7) ≠ 0 ∧ s.Inv ∧ s.Running ∧
      (∀ y < s.regs.height.toNat, s.columnAddr y < Config.addrSpace ∧
        (s.columnAddr y < s.mask.mptr ∨ s.blobEnd ≤ s.columnAddr y)) ∧
      s.mask.mptr + 2 = s.blobEnd ∧ 2 < s.clippedRows 3 ∧ s.blobEnd ≤ Config.addrSpace := by decide +kernel

theorem witness_mask_column_encoder :
    (working 8 7 1 0 [0, 0, 0, 0, 9, 9, 9] []).Running ∧ ∀ y < (working 8 7 1 0 [0, 0, 0, 0, 9, 9, 9] []).regs.height.toNat,
      (working 8 7 1 0 [0, 0, 0, 0, 9, 9, 9] []).rowAddr 0 y < Config.addrSpace := by decide

/-- The hypotheses on the state of the statement about `DEC_MASK_COL`. -/
abbrev ColumnReady (s : State) : Prop :=
  s.Inv ∧ s.Running ∧ (∀ y < s.regs.height.toNat, s.rowAddr 0 y < Config.addrSpace ∧
    (s.rowAddr 0 y < s.regs.blobBase.toNat ∨ s.blobEnd ≤ s.rowAddr 0 y)) ∧ s.blobEnd ≤ Config.addrSpace

/-- V-S4's record, a last literal run clipped at the blob's end (`05 01 02 03`), both with `ofs` 0 (log 27), and V-S4's record
after a table of one entry, with `ofs` 2. -/
theorem witness_mask_column_decoder :
    (let s := working 8 7 1 4 (List.replicate 7 0x11) [0x84, 0x00, 0x83, 0x09];
      ColumnReady s ∧ s.HoldsRuns s.regs.blobBase.toNat [.rep 4 0, .rep 3 9]) ∧
    (let s := working 8 3 1 4 [] [0x05, 1, 2, 3];
      ColumnReady s ∧ s.HoldsRuns s.regs.blobBase.toNat [.lit [1, 2, 3, 4, 5]]) ∧
    (let s := working 8 7 1 6 (List.replicate 7 0x11) [2, 0, 0x84, 0x00, 0x83, 0x09];
      ColumnReady s ∧ s.HoldsRuns (s.regs.blobBase.toNat + 2) [.rep 4 0, .rep 3 9]) := by
  refine ⟨?_, ?_, ?_⟩ <;> decide +kernel

/-- R193's records with `HEIGHT` 3 that end a decode, each after a run: nothing left, `83`, `03 01` and `80`; and a record at
the end of the blob. -/
theorem witness_mask_column_stops :
    (let s := working 8 3 1 2 [] [1, 9]; ColumnReady s ∧ s.RunsStop s.regs.blobBase.toNat [.lit [9]] .noHeader) ∧
    (let s := working 8 3 1 3 [] [1, 9, 0x83];
      ColumnReady s ∧ s.RunsStop s.regs.blobBase.toNat [.lit [9]] (.noValue 3)) ∧
    (let s := working 8 3 1 4 [] [1, 9, 3, 1];
      ColumnReady s ∧ s.RunsStop s.regs.blobBase.toNat [.lit [9]] (.shortLiteral 3 [1])) ∧
    (let s := working 8 3 1 3 [] [1, 9, 0x80];
      ColumnReady s ∧ s.RunsStop s.regs.blobBase.toNat [.lit [9]] (.zeroCount true)) ∧
    (let s := working 8 3 1 2 [] [1, 9];
      ColumnReady s ∧ s.RunsStop (s.regs.blobBase.toNat + 2) [] .noHeader) := by
  refine ⟨?_, ?_, ?_, ?_, ?_⟩ <;> decide +kernel

/-- A width of 7, a height of 0, a width of 0, and a command that starts. -/
theorem witness_command_precondition :
    IsCommand .decMask ∧ (engine 7 1 8 0 [] []).regs.status.busy = false ∧
    (engine 7 1 8 0 [] []).regs.width.toNat % 8 ≠ 0 ∧ (engine 8 0 8 0 [] []).regs.height = 0 ∧
    (engine 0 1 8 0 [] []).regs.width = 0 ∧ (engine 0 1 8 0 [] []).regs.height ≠ 0 ∧
    (engine 8 1 8 7 [] []).Startable ∧
    GoesOn (exec .encImage (engine 8 1 8 7 [] [])) := by
  decide +kernel

/-- A picture whose last pixel is the first byte past the space, one whose last pixel is the blob's first byte, and one with the
blob between two of its rows (R244). -/
theorem witness_launch_premises :
    IsCommand .encImage ∧
    (let s := (engine 8 1 8 7 [] []).setRegs { (engine 8 1 8 7 [] []).regs with pixBase := 0xFFFFFFF9 };
      s.Startable ∧ s.addressesFit (s.rowLen .encImage) = false) ∧
    (let s := (engine 8 1 8 7 [] []).setRegs { (engine 8 1 8 7 [] []).regs with pixBase := 0xF9 };
      s.Startable ∧ s.addressesFit (s.rowLen .encImage) = true ∧
        s.regionsDisjoint (s.rowLen .encImage) = false) ∧
    (let s := (engine 8 2 32 7 [] []).setRegs { (engine 8 2 32 7 [] []).regs with pixBase := 0xF0 };
      s.Startable ∧ s.addressesFit (s.rowLen .encImage) = true ∧
        s.regionsDisjoint (s.rowLen .encImage) = false) := by decide +kernel

/-- V-S1: a blob that fits exactly, and one byte too little room. -/
theorem witness_encode_image :
    let blob : List Byte := [4, 0, 0, 0, 0x68, 5, 0]
    (let s := engine 8 1 8 7 (List.replicate 8 5) [];
      s.Inv ∧ s.Startable ∧ s.Launchable .encImage ∧
        blob = imageBlob s.regs.transpEn s.picture 1 s.stripes ∧ blob.length ≤ s.regs.blobSize.toNat) ∧
    (let s := engine 8 1 8 6 (List.replicate 8 5) [];
      s.Inv ∧ s.Startable ∧ s.Launchable .encImage ∧
        blob = imageBlob s.regs.transpEn s.picture 1 s.stripes ∧ s.regs.blobSize.toNat < blob.length) := by
  decide +kernel

/-- V-S3's blob. -/
theorem witness_decode_image :
    let s := transparent 7 (engine 8 1 8 11 [] [4, 0, 0, 0, 0x7C, 0x01, 0xB7, 0x1B, 0xF7, 0xAF, 0x0B])
    let blob : List Byte := [4, 0, 0, 0, 0x7C, 0x01, 0xB7, 0x1B, 0xF7, 0xAF, 0x0B]
    s.Inv ∧ s.Startable ∧ s.Launchable .decImage ∧
      blob = imageBlob true (fun _ x => [1, 2, 7, 3, 4, 7, 5, 6].getD x 0) s.regs.height.toNat s.stripes ∧
      blob.length ≤ s.regs.blobSize.toNat ∧ s.mem.bytes s.regs.blobBase.toNat blob.length = blob ∧
      s.regs.width.toNat ≤ s.regs.stride.toNat := by decide +kernel

/-- The hypotheses on the state of the statement about any image blob. -/
abbrev DecodesImages (s : State) : Prop := s.Inv ∧ s.Startable ∧ s.Launchable .decImage

/-- A 16 by 1 engine whose blob is given, over a destination of `0xEE` bytes. -/
def twoStripes (blob : List Byte) : State :=
  engine 16 1 16 (BitVec.ofNat _ blob.length) (List.replicate 16 0xEE) blob

/-- The first stripe of V-DI1's blob is skipped, the second decodes: every stripe is found. -/
theorem witness_decode_image_found :
    let s := twoStripes [8, 0, 0, 0, 12, 0, 0, 0, 1, 5, 0, 0, 0x68, 5, 0]
    DecodesImages s ∧ s.stripes = 2 ∧ s.Finds 0 .skipped ∧
      s.Finds 1 (.record .a false .w4 5 (List.replicate 7 .aRep)) := by
  simp only [State.Finds]
  decide +kernel

/-- Two entries share one record (V-DI8), and the table is not in order (R172). -/
theorem witness_decode_image_shared :
    let s := twoStripes [8, 0, 0, 0, 8, 0, 0, 0, 0x68, 5, 0]
    DecodesImages s ∧ ∀ st < 2, s.Finds st (.record .a false .w4 5 (List.replicate 7 .aRep)) := by
  simp only [State.Finds]
  decide +kernel

/-- A skipped stripe, then each way for a decode to end: an entry beyond the blob (V-DI6's), no first pixel (V-DI4's), no bit
after the first pixel (V-DI5's), `RUN 0` (V-DI7's). -/
theorem witness_decode_image_stops :
    (let s := twoStripes [8, 0, 0, 0, 9, 0, 0, 0, 1];
      DecodesImages s ∧ s.Finds 0 .skipped ∧ s.StopsAt 1 .noType) ∧
    (let s := twoStripes [8, 0, 0, 0, 9, 0, 0, 0, 1, 0x7C];
      DecodesImages s ∧ s.Finds 0 .skipped ∧ s.StopsAt 1 (.noFirst .a true .w4)) ∧
    (let s := twoStripes [8, 0, 0, 0, 9, 0, 0, 0, 1, 0x68, 9];
      DecodesImages s ∧ s.Finds 0 .skipped ∧ s.StopsAt 1 (.cutCode .a false .w4 9 [])) ∧
    (let s := twoStripes [8, 0, 0, 0, 9, 0, 0, 0, 1, 0x68, 9, 0x13, 0];
      DecodesImages s ∧ s.Finds 0 .skipped ∧ s.StopsAt 1 (.zeroRun .a false .w4 9 [])) := by
  simp only [State.Finds, State.StopsAt]
  refine ⟨by decide +kernel, by decide +kernel, ?_, by decide +kernel⟩
  exact ⟨by decide +kernel, by decide +kernel, by decide +kernel, by decide +kernel, by decide +kernel,
    by decide +kernel, [], by decide +kernel, by decide +kernel⟩

/-- R194's example: a blob that fits exactly, and one byte too little room. -/
theorem witness_encode_mask :
    let blob : List Byte := [0, 0, 6, 0, 10, 0, 0x83, 0xFF, 1, 0x0F, 4, 0, 1, 0, 1]
    (let s := engine 24 4 3 15 [0, 255, 0, 0, 255, 1, 0, 255, 0, 0, 15, 1] [];
      s.Inv ∧ s.Startable ∧ s.Launchable .encMask ∧ blob = maskBlob s.picture 4 s.stripes ∧
        (∀ st < s.stripes, maskEntry s.picture 4 s.stripes st ≤ 0xFFFF) ∧
        blob.length ≤ s.regs.blobSize.toNat) ∧
    (let s := engine 24 4 3 14 [0, 255, 0, 0, 255, 1, 0, 255, 0, 0, 15, 1] [];
      s.Inv ∧ s.Startable ∧ s.Launchable .encMask ∧ blob = maskBlob s.picture 4 s.stripes ∧
        s.regs.blobSize.toNat < blob.length) := by decide +kernel

/-- R196's example, in both modes. -/
theorem witness_decode_mask :
    let blob : List Byte := [0, 0, 6, 0, 10, 0, 0x83, 0xFF, 1, 0x0F, 4, 0, 1, 0, 1]
    let plane : List Byte := [0, 255, 0, 0, 255, 1, 0, 255, 0, 0, 15, 1]
    ∀ s ∈ [engine 24 4 3 15 (List.replicate 12 0x11) blob, orMode (engine 24 4 3 15 (List.replicate 12 0x11) blob)],
      s.Inv ∧ s.Startable ∧ s.Launchable .decMask ∧
        blob = maskBlob (fun y x => plane.getD (3 * y + x) 0) s.regs.height.toNat s.stripes ∧
        (∀ st < s.stripes, maskEntry (fun y x => plane.getD (3 * y + x) 0) s.regs.height.toNat s.stripes st ≤
          0xFFFF) ∧
        blob.length ≤ s.regs.blobSize.toNat ∧ s.mem.bytes s.regs.blobBase.toNat blob.length = blob ∧
        s.stripes ≤ s.regs.stride.toNat := by decide +kernel

/-- Two columns of three rows: an absent one and a run of 7s; then, after an absent one, an entry that is cut short, one at the
blob's end, a missing value byte and a count of 0. -/
theorem witness_decode_mask_found :
    let two (blob : List Byte) : State := engine 16 3 2 (BitVec.ofNat _ blob.length) [] blob
    let ready (s : State) : Prop := s.Inv ∧ s.Startable ∧ s.Launchable .decMask ∧ s.stripes = 2 ∧ s.FindsColumn 0 none
    (ready (two [0, 0, 4, 0, 0x83, 7]) ∧ (two [0, 0, 4, 0, 0x83, 7]).FindsColumn 1 (some [.rep 3 7])) ∧
    (ready (two [0, 0, 4]) ∧ (two [0, 0, 4]).regs.blobSize.toNat < 2 * 1 + 2) ∧
    (ready (two [0, 0, 4, 0]) ∧ (two [0, 0, 4, 0]).maskEntryOf 1 ≠ 0 ∧ (two [0, 0, 4, 0]).RunsStop 0x104 [] .noHeader) ∧
    (ready (two [0, 0, 4, 0, 0x83]) ∧ (two [0, 0, 4, 0, 0x83]).maskEntryOf 1 ≠ 0 ∧
      (two [0, 0, 4, 0, 0x83]).RunsStop 0x104 [] (.noValue 3)) ∧
    (ready (two [0, 0, 4, 0, 0]) ∧ (two [0, 0, 4, 0, 0]).maskEntryOf 1 ≠ 0 ∧
      (two [0, 0, 4, 0, 0]).RunsStop 0x104 [] (.zeroCount false)) := by
  simp only [State.FindsColumn]
  refine ⟨?_, ?_, ?_, ?_, ?_⟩ <;> decide +kernel

/-- V-S3: encoded here, decoded into another engine's destination with another stride. -/
theorem witness_image_round_trip :
    let s := transparent 7 (engine 8 1 8 11 [1, 2, 7, 3, 4, 7, 5, 6] [])
    let t := after (exec .encImage s)
    let r := transparent 7 (engine 8 1 9 11 (List.replicate 8 0xEE)
      [4, 0, 0, 0, 0x7C, 0x01, 0xB7, 0x1B, 0xF7, 0xAF, 0x0B])
    s.Inv ∧ s.regs.status.busy = false ∧ GoesOn (exec .encImage s) ∧ t.regs.status.err = .ok ∧ r.Inv ∧
      r.Startable ∧ r.Launchable .decImage ∧ r.regs.width = s.regs.width ∧ r.regs.height = s.regs.height ∧
      r.regs.transpEn = s.regs.transpEn ∧ r.regs.transpColor = s.regs.transpColor ∧ r.regs.palmod = 0 ∧
      r.regs.blobSize = t.regs.outLen ∧
      r.mem.bytes r.regs.blobBase.toNat t.regs.outLen.toNat =
        t.mem.bytes s.regs.blobBase.toNat t.regs.outLen.toNat ∧
      r.regs.width.toNat ≤ r.regs.stride.toNat := by decide +kernel

theorem witness_mask_round_trip :
    let s := engine 24 4 3 15 [0, 255, 0, 0, 255, 1, 0, 255, 0, 0, 15, 1] []
    let t := after (exec .encMask s)
    let r := engine 24 4 5 15 (List.replicate 20 0x11) [0, 0, 6, 0, 10, 0, 0x83, 0xFF, 1, 0x0F, 4, 0, 1, 0, 1]
    s.Inv ∧ s.regs.status.busy = false ∧ GoesOn (exec .encMask s) ∧ t.regs.status.err = .ok ∧ r.Inv ∧
      r.Startable ∧ r.Launchable .decMask ∧ r.regs.modeOr = false ∧ r.regs.width = s.regs.width ∧
      r.regs.height = s.regs.height ∧ r.regs.blobSize = t.regs.outLen ∧
      r.mem.bytes r.regs.blobBase.toNat t.regs.outLen.toNat =
        t.mem.bytes s.regs.blobBase.toNat t.regs.outLen.toNat ∧
      r.stripes ≤ r.regs.stride.toNat := by decide +kernel

/-- A decode that ends with an error after writing pixels (R178's example), and an encode that ends with one. -/
theorem witness_footprints :
    (let s := engine 8 1 8 6 (List.replicate 8 0xEE) [4, 0, 0, 0, 0x68, 9];
      s.Inv ∧ GoesOn (exec .decImage s) ∧
        (after (exec .decImage s)).regs.status.err = .trunc ∧
        dest 8 (after (exec .decImage s)) = [9, 0xEE, 0xEE, 0xEE, 0xEE, 0xEE, 0xEE, 0xEE]) ∧
    (let s := engine 8 1 8 6 (List.replicate 8 5) [];
      s.regs.status.busy = false ∧ GoesOn (exec .encImage s) ∧
        (after (exec .encImage s)).regs.status.err ≠ .ok) := by decide +kernel

/-! ### A plane whose records do not fit 16-bit offsets -/

theorem runLength_replicate (n : Nat) (v : Byte) : runLength v (List.replicate n v) = n := by
  induction n with
  | zero => rfl
  | succ n ih => simp [List.replicate_succ, runLength, ih]; omega

theorem maskRuns_skip (k m : Nat) (v : Byte) :
    maskRuns [] k (List.replicate (k + m) v) = maskRuns [] 0 (List.replicate m v) := by
  induction k with
  | zero => simp
  | succ k ih => rw [show k + 1 + m = (k + m) + 1 by omega, List.replicate_succ, maskRuns, ih]

theorem maskRuns_constant (q : Nat) (v : Byte) :
    maskRuns [] 0 (List.replicate (127 * q + 3) v) = List.replicate q (.rep 127 v) ++ [.rep 3 v] := by
  induction q with
  | zero => simp [List.replicate_succ, maskRuns, runLength, literalRun]
  | succ q ih =>
    have h : 127 * (q + 1) + 3 = (126 + (127 * q + 3)) + 1 := by omega
    rw [h, List.replicate_succ, maskRuns, ← List.replicate_succ, runLength_replicate, if_pos (by omega),
      show min (126 + (127 * q + 3) + 1) 127 = 127 by omega, maskRuns_skip, ih]
    simp [literalRun, List.replicate_succ]

theorem runBytes_constant (q : Nat) (v : Byte) :
    (runBytes (127 * q + 3) (List.replicate q (.rep 127 v) ++ [.rep 3 v])).length = 2 * (q + 1) := by
  induction q with
  | zero => rfl
  | succ q ih =>
    rw [show 127 * (q + 1) + 3 = (127 * q + 129) + 1 by omega, List.replicate_succ, List.cons_append, runBytes,
      List.length_append]
    simp only [MaskRun.rows, List.length_replicate, MaskRun.bytes, List.length_cons, List.length_nil]
    rw [show 127 * q + 129 + 1 - 127 = 127 * q + 3 by omega, ih]
    omega

/-- 65 columns of 65535 equal rows (a stride of 0): each record takes 1034 bytes. -/
def tallPlane : State :=
  { State.reset with
    regs := { Regs.reset with width := 520, height := 0xFFFF, blobBase := 0x1000 }
    mem := (List.range 65).map fun i => (i, 1) }

theorem tallPlane_column (st n : Nat) (h : st < 65) : columnOf tallPlane.picture n st = List.replicate n 1 := by
  have hr : ∀ st < 65, tallPlane.mem.read st = 1 := by decide +kernel
  have hp : ∀ y, tallPlane.picture y st = 1 := fun y => by
    rw [← hr st h]
    simp [State.picture, tallPlane, Regs.reset]
  simp [columnOf, hp, List.map_const']

theorem tallPlane_record (st : Nat) (h : st < 65) : (maskRecordOf tallPlane.picture 65535 st).length = 1034 := by
  rw [maskRecordOf, tallPlane_column st _ h, if_neg (by rw [List.all_replicate]; decide), maskRecord,
    List.length_replicate, show 65535 = 127 * 516 + 3 from rfl, maskRuns_constant, runBytes_constant]

theorem tallPlane_entry (st : Nat) (h : st < 65) : maskEntry tallPlane.picture 65535 65 st = 130 + 1034 * st := by
  rw [maskEntry, tallPlane_column st _ h, if_neg (by rw [List.all_replicate]; decide), maskOffset,
    List.map_congr_left (g := fun _ => 1034) fun j hj => tallPlane_record j (by
      have := List.mem_range.mp hj; omega)]
  simp [List.map_const', Nat.mul_comm]

theorem witness_mask_offset_out_of_range :
    tallPlane.Startable ∧ tallPlane.Launchable .encMask ∧ 64 < tallPlane.stripes ∧
    0xFFFF < maskEntry tallPlane.picture tallPlane.regs.height.toNat tallPlane.stripes 64 ∧
    ∀ j < 64, maskEntry tallPlane.picture tallPlane.regs.height.toNat tallPlane.stripes j ≤ 0xFFFF := by
  refine ⟨by decide, ⟨by decide, ?_⟩, by decide, ?_, ?_⟩
  · simp [State.regionsDisjoint, tallPlane, Regs.reset]
  · rw [show tallPlane.regs.height.toNat = 65535 from rfl, show tallPlane.stripes = 65 from rfl,
      tallPlane_entry 64 (by omega)]
    omega
  · intro j hj
    rw [show tallPlane.regs.height.toNat = 65535 from rfl, show tallPlane.stripes = 65 from rfl,
      tallPlane_entry j (by omega)]
    omega

end Sys2Proof.Tests
end

/-! ## Bits of numbers and of byte strings -/

namespace Sys2Proof

theorem bitsOf_mod (n v : Nat) : bitsOf n (v % 2 ^ n) = bitsOf n v := by
  induction n generalizing v with
  | zero => rfl
  | succ n ih =>
    have hdiv : v % 2 ^ (n + 1) / 2 = v / 2 % 2 ^ n := by
      rw [pow_succ', Nat.mod_mul_right_div_self]
    have hmod : v % 2 ^ (n + 1) % 2 = v % 2 := Nat.mod_mod_of_dvd v (Dvd.intro_left (2 ^ n) rfl)
    rw [bitsOf, bitsOf, hdiv, ih, hmod]

theorem bitsOf_add (m n v : Nat) : bitsOf (m + n) v = bitsOf m v ++ bitsOf n (v / 2 ^ m) := by
  induction m generalizing v with
  | zero => simp [bitsOf]
  | succ m ih =>
    rw [Nat.add_right_comm, bitsOf, bitsOf, ih, List.cons_append, Nat.div_div_eq_div_mul, pow_succ']

/-- The bits of a number in two parts, the low `m` bits first. -/
theorem bitsOf_parts {m a : Nat} (n b : Nat) (ha : a < 2 ^ m) :
    bitsOf (m + n) (a + 2 ^ m * b) = bitsOf m a ++ bitsOf n b := by
  rw [bitsOf_add, Nat.add_mul_div_left _ _ (Nat.two_pow_pos m), Nat.div_eq_of_lt ha, Nat.zero_add, ← bitsOf_mod m,
    Nat.add_mul_mod_self_left, bitsOf_mod]

theorem natOfBits_bitsOf (n v : Nat) : natOfBits (bitsOf n v) = v % 2 ^ n := by
  induction n generalizing v with
  | zero => rw [bitsOf, natOfBits, pow_zero, Nat.mod_one]
  | succ n ih =>
    have hbit : (decide (v % 2 = 1)).toNat = v % 2 := by
      rcases Nat.mod_two_eq_zero_or_one v with h | h <;> rw [h] <;> rfl
    rw [bitsOf, natOfBits, ih, hbit, pow_succ', Nat.mod_mul]

theorem take_bitsOf {n m : Nat} (h : n ≤ m) (v : Nat) : (bitsOf m v).take n = bitsOf n v := by
  obtain ⟨k, rfl⟩ := Nat.exists_eq_add_of_le h
  rw [bitsOf_add, List.take_left' (bitsOf_length n v)]

theorem drop_bitsOf {n m : Nat} (h : n ≤ m) (v : Nat) : (bitsOf m v).drop n = bitsOf (m - n) (v / 2 ^ n) := by
  obtain ⟨k, rfl⟩ := Nat.exists_eq_add_of_le h
  rw [bitsOf_add, List.drop_left' (bitsOf_length n v), Nat.add_sub_cancel_left]

theorem streamBits_cons (b : Byte) (bs : List Byte) : streamBits (b :: bs) = bitsOf 8 b.toNat ++ streamBits bs := rfl

theorem streamBits_append (bs cs : List Byte) : streamBits (bs ++ cs) = streamBits bs ++ streamBits cs :=
  List.flatMap_append

theorem streamBits_length (bs : List Byte) : (streamBits bs).length = 8 * bs.length := by
  induction bs with
  | nil => rfl
  | cons b bs ih => rw [streamBits_cons, List.length_append, bitsOf_length, ih, List.length_cons]; omega

/-- Whole bytes are packed as they are. -/
theorem packBits_streamBits_append (bs : List Byte) (tail : List Bool) :
    packBits (streamBits bs ++ tail) = bs ++ packBits tail := by
  induction bs with
  | nil => rfl
  | cons b bs ih =>
    have hn : ((streamBits (b :: bs) ++ tail).length + 7) / 8 = ((streamBits bs ++ tail).length + 7) / 8 + 1 := by
      rw [streamBits_cons, List.append_assoc, List.length_append, bitsOf_length]
      omega
    have hb : BitVec.ofNat 8 (natOfBits (bitsOf 8 b.toNat)) = b := by
      rw [natOfBits_bitsOf, Nat.mod_eq_of_lt b.isLt, BitVec.ofNat_toNat, BitVec.setWidth_eq]
    rw [packBits, hn, packChunks, streamBits_cons, List.append_assoc, List.take_left' (bitsOf_length 8 _),
      List.drop_left' (bitsOf_length 8 _), hb, ← packBits, ih, List.cons_append]

/-- At most 7 bits are packed into one byte, none into no byte. -/
theorem packBits_bitsOf {n v : Nat} (hn : n ≤ 7) (hv : v < 2 ^ n) :
    packBits (bitsOf n v) = if 0 < n then [BitVec.ofNat 8 v] else [] := by
  rw [packBits, bitsOf_length]
  split
  · rw [show (n + 7) / 8 = 1 by omega, packChunks, packChunks, List.take_of_length_le (by rw [bitsOf_length]; omega),
      natOfBits_bitsOf, Nat.mod_eq_of_lt hv]
  · rw [show (n + 7) / 8 = 0 by omega, packChunks]

end Sys2Proof

namespace Sys2Proof.Machine

theorem lowMask_toNat {n : Nat} (h : n ≤ 16) : (lowMask n).toNat = 2 ^ n - 1 := by
  have : 2 ^ n ≤ 2 ^ 16 := Nat.pow_le_pow_right Nat.two_pos h
  rw [lowMask, BitVec.toNat_ofNat, Nat.mod_eq_of_lt (by have := Nat.two_pow_pos n; omega)]

/-- Masking with the low `n` bits is the remainder by `2 ^ n`. -/
theorem and_lowMask_toNat (x : BitVec 16) {n : Nat} (h : n ≤ 16) : (x &&& lowMask n).toNat = x.toNat % 2 ^ n := by
  rw [BitVec.toNat_and, lowMask_toNat h, Nat.and_two_pow_sub_one_eq_mod]

/-! ## The Bit Packer -/

theorem Packer.init_ok : Packer.init.ok := by decide

theorem Packer.flush_ok (p : Packer) : p.flush.ok := ⟨Nat.zero_le 7, Nat.one_pos⟩

/-- The accumulator after a write, before a byte is emitted (R103). -/
theorem Packer.wacc_write {p : Packer} (hp : p.ok) (v : Byte) {n : Nat} (hn : n ≤ 8) :
    (p.wacc ||| ((v.setWidth 16 &&& lowMask n) <<< p.wcnt)).toNat = p.wacc.toNat + 2 ^ p.wcnt * (v.toNat % 2 ^ n) := by
  obtain ⟨hcnt, hacc⟩ := hp
  have hv : v.toNat % 2 ^ n < 2 ^ 8 := (Nat.mod_le _ _).trans_lt v.isLt
  have hpow : 2 ^ p.wcnt ≤ 2 ^ 7 := Nat.pow_le_pow_right Nat.two_pos hcnt
  have hlt : 2 ^ p.wcnt * (v.toNat % 2 ^ n) < 2 ^ 16 := by nlinarith
  rw [BitVec.toNat_or, BitVec.toNat_shiftLeft, and_lowMask_toNat _ (by omega), BitVec.toNat_setWidth_of_le (by omega),
    Nat.shiftLeft_eq, Nat.mul_comm, Nat.mod_eq_of_lt hlt, Nat.lor_comm, ← Nat.two_pow_add_eq_or_of_lt hacc, Nat.add_comm]

/-- Emission moves 8 bits from the accumulator to `WOUT` and changes no bit held (R103). -/
theorem Packer.emit_spec {p : Packer} (hcnt : p.wcnt ≤ 15) (hacc : p.wacc.toNat < 2 ^ p.wcnt) :
    p.emit.ok ∧ p.emit.bits = p.bits := by
  rw [Packer.emit]
  split
  · next h8 =>
    obtain ⟨k, hk⟩ := Nat.exists_eq_add_of_le h8
    have hdiv : (p.wacc >>> 8).toNat = p.wacc.toNat / 2 ^ 8 := by rw [BitVec.toNat_ushiftRight, Nat.shiftRight_eq_div_pow]
    have hlow : (p.wacc.setWidth 8).toNat = p.wacc.toNat % 2 ^ 8 := BitVec.toNat_setWidth ..
    rw [hk, pow_add] at hacc
    refine ⟨⟨by show p.wcnt - 8 ≤ 7; omega, ?_⟩, ?_⟩
    · show (p.wacc >>> 8).toNat < 2 ^ (p.wcnt - 8)
      rw [hdiv, hk, Nat.add_sub_cancel_left]
      exact Nat.div_lt_of_lt_mul hacc
    · simp only [Packer.bits, streamBits_append, streamBits_cons]
      rw [hdiv, hlow, hk, Nat.add_sub_cancel_left, bitsOf_add, bitsOf_mod, List.append_assoc]
      rfl
  · next h8 => exact ⟨⟨by omega, hacc⟩, rfl⟩

/-- A write keeps the packer within its bounds and appends the low `n` bits of its operand (R103). -/
theorem Packer.writeNbits_spec {p : Packer} (hp : p.ok) (v : Byte) {n : Nat} (hn : n ≤ 8) :
    (p.writeNbits v n).ok ∧ (p.writeNbits v n).bits = p.bits ++ bitsOf n v.toNat := by
  have hacc := Packer.wacc_write hp v hn
  obtain ⟨hcnt, hlt⟩ := hp
  have hv : v.toNat % 2 ^ n < 2 ^ n := Nat.mod_lt _ (Nat.two_pow_pos n)
  have hbound : p.wacc.toNat + 2 ^ p.wcnt * (v.toNat % 2 ^ n) < 2 ^ (p.wcnt + n) := by
    rw [pow_add]
    nlinarith
  obtain ⟨hok, hbits⟩ := Packer.emit_spec (p := { p with
      wacc := p.wacc ||| ((v.setWidth 16 &&& lowMask n) <<< p.wcnt), wcnt := p.wcnt + n })
    (by show p.wcnt + n ≤ 15; omega) (by rw [hacc]; exact hbound)
  refine ⟨hok, hbits.trans ?_⟩
  rw [Packer.bits, hacc, bitsOf_parts n _ hlt, bitsOf_mod, ← List.append_assoc, Packer.bits]

theorem Packer.writeBit_spec {p : Packer} (hp : p.ok) (b : Bool) :
    (p.writeBit b).ok ∧ (p.writeBit b).bits = p.bits ++ [b] := by
  cases b <;> exact Packer.writeNbits_spec hp _ (by omega)

/-- A flush packs the bits held, the last byte padded with zero bits (R105). -/
theorem Packer.flush_eq {p : Packer} (hp : p.ok) : p.flush = { wacc := 0, wcnt := 0, wout := packBits p.bits } := by
  obtain ⟨hcnt, hacc⟩ := hp
  rw [Packer.flush, Packer.bits, packBits_streamBits_append, packBits_bitsOf hcnt hacc]
  split
  · rw [BitVec.ofNat_toNat]
  · rw [List.append_nil]

/-! ## The Bit Unpacker -/

theorem Memory.bytes_succ (m : Memory) (a n : Nat) : m.bytes a (n + 1) = m.read a :: m.bytes (a + 1) n := by
  rw [Memory.bytes, List.range'_succ, List.map_cons, Memory.bytes]

theorem Memory.bytes_length (m : Memory) (a n : Nat) : (m.bytes a n).length = n := by
  rw [Memory.bytes, List.length_map, List.length_range']

theorem State.pending_length (s : State) : s.pending.length = s.bu.rcnt + 8 * (s.bu.rend - s.bu.rptr) := by
  rw [State.pending, List.length_append, bitsOf_length, streamBits_length, Memory.bytes_length]

theorem Unpacker.racc_pull {u : Unpacker} (hcnt : u.rcnt < 8) (hacc : u.racc.toNat < 2 ^ u.rcnt) (b : Byte) :
    (u.pull b).racc.toNat = u.racc.toNat + 2 ^ u.rcnt * b.toNat := by
  have hpow : 2 ^ u.rcnt ≤ 2 ^ 7 := Nat.pow_le_pow_right Nat.two_pos (by omega)
  have hb := b.isLt
  have hlt : 2 ^ u.rcnt * b.toNat < 2 ^ 16 := by nlinarith
  rw [Unpacker.pull, BitVec.toNat_or, BitVec.toNat_shiftLeft, BitVec.toNat_setWidth_of_le (by omega), Nat.shiftLeft_eq,
    Nat.mul_comm, Nat.mod_eq_of_lt hlt, Nat.lor_comm, ← Nat.two_pow_add_eq_or_of_lt hacc, Nat.add_comm]

/-- Pulling a byte keeps the unpacker within its bounds (R107). -/
theorem Unpacker.pull_ok {u : Unpacker} (hu : u.ok) (hcnt : u.rcnt < 8) (hptr : u.rptr < u.rend) (b : Byte) :
    (u.pull b).ok := by
  obtain ⟨_, hacc, hstart, hheld, hend⟩ := hu
  have hb := b.isLt
  refine ⟨?_, ?_, ?_, ?_, ?_⟩
  · show u.rcnt + 8 ≤ 15; omega
  · rw [Unpacker.racc_pull hcnt hacc]
    show _ < 2 ^ (u.rcnt + 8)
    rw [pow_add]
    nlinarith
  · show u.start ≤ u.rptr + 1; omega
  · show u.rcnt + 8 ≤ 8 * (u.rptr + 1 - u.start); omega
  · show u.rptr + 1 ≤ max u.start u.rend; omega

/-- Taking buffered bits keeps the unpacker within its bounds (R108). -/
theorem Unpacker.take_ok {u : Unpacker} (hu : u.ok) {n : Nat} (hn : n ≤ u.rcnt) : (u.take n).ok := by
  obtain ⟨hcnt, hacc, hstart, hheld, hend⟩ := hu
  refine ⟨?_, ?_, hstart, ?_, hend⟩
  · show u.rcnt - n ≤ 15; omega
  · show (u.racc >>> n).toNat < 2 ^ (u.rcnt - n)
    rw [BitVec.toNat_ushiftRight, Nat.shiftRight_eq_div_pow]
    refine Nat.div_lt_of_lt_mul ?_
    rwa [← pow_add, Nat.add_sub_cancel' hn]
  · show u.rcnt - n ≤ 8 * (u.rptr - u.start); omega

theorem Unpacker.init_ok (u : Unpacker) (start stop : Nat) :
    Unpacker.ok { u with racc := 0, rcnt := 0, rptr := start, rend := stop, start := start } :=
  ⟨Nat.zero_le _, Nat.one_pos, le_refl _, Nat.zero_le _, le_max_left _ _⟩

end Sys2Proof.Machine

namespace Sys2Proof.Machine

/-! ## Reading from a bit string -/

theorem BitReader.bind_ok {α β : Type} {x : BitReader α} {f : α → BitReader β} {bits rest : List Bool} {a : α}
    (h : x bits = .ok (a, rest)) : (x >>= f) bits = f a rest := by
  show (x bits >>= fun r => f r.1 r.2) = f a rest
  rw [h]
  rfl

theorem BitReader.bind_error {α β : Type} {x : BitReader α} {f : α → BitReader β} {bits : List Bool} {e : DecodeError}
    (h : x bits = .error e) : (x >>= f) bits = .error e := by
  show (x bits >>= fun r => f r.1 r.2) = .error e
  rw [h]
  rfl

theorem BitReader.bind_ok_inv {α β : Type} {x : BitReader α} {f : α → BitReader β} {bits : List Bool} {r : β × List Bool}
    (h : (x >>= f) bits = .ok r) : ∃ a rest, x bits = .ok (a, rest) ∧ f a rest = .ok r := by
  cases hx : x bits with
  | ok p => exact ⟨p.1, p.2, rfl, (BitReader.bind_ok (f := f) hx).symm.trans h⟩
  | error e => rw [BitReader.bind_error hx] at h; cases h

/-! ## Requests of the host and selects -/

/-- A select whose lines decode runs as the instruction they spell. -/
theorem fetchSelect_ok {s : State} {f : Format} {lines : List Byte} {i : Instr} (h : decode f s.dp.shr lines = .ok i) :
    fetchSelect s f lines = .run i s := by
  rw [fetchSelect, h]

theorem fetch_cons {s : State} {r : Request} {rest : List Request} (h : s.bus = r :: rest) :
    fetch s = fetchRequest r (s.setBus rest) := by
  rw [fetch, h]

theorem fetch_write (s : State) (off v : Word) (rest : List Request) :
    fetch (s.setBus (.regWrite off v :: rest)) = fetchWrite (s.setBus rest) off v := by
  rw [fetch_cons (State.setBus_bus _ _), State.setBus_setBus, fetchRequest]

theorem fetch_read (s : State) (off : Word) (rest : List Request) :
    fetch (s.setBus (.regRead off :: rest)) = fetchRead (s.setBus rest) off := by
  rw [fetch_cons (State.setBus_bus _ _), State.setBus_setBus, fetchRequest]

theorem step_run {s t : State} {i : Instr} (h : fetch s = .run i t) : step s = exec i t := by
  rw [step, h]

theorem step_settled {s : State} {o : Host.Outcome State Fault Refusal} (h : fetch s = .settled o) : step s = o := by
  rw [step, h]

theorem fetchWrite_command {s : State} {v : Word} {i : Instr} (h : decode .cmd s.dp.shr [v.setWidth 8] = .ok i) :
    fetchWrite s 0 v = .run i s := by
  rw [fetchWrite, if_pos (by decide), if_pos rfl, h]

/-- Settles O6. -/
theorem stepRunsSelected : Obligations.StepRunsSelected := by
  intro s rest i
  refine ⟨fun lines hbus hi => ?_, fun lines hbus hi => ?_, fun lines hbus hi => ?_, fun v hbus hi => ?_⟩ <;>
    refine step_run ?_ <;> rw [fetch_cons hbus, fetchRequest]
  · exact fetchSelect_ok hi
  · exact fetchSelect_ok hi
  · exact fetchSelect_ok hi
  · exact fetchWrite_command hi

theorem alignedOffset_iff (off : Word) : alignedOffset off = true ↔ off.toNat % 4 = 0 := by
  rw [alignedOffset, decide_eq_true_eq]

/-- An aligned read leaves the register's value in the read data (R30). -/
theorem step_regRead (s : State) {off : Word} (h : off.toNat % 4 = 0) :
    step (s.setBus [.regRead off]) = .next ((s.setBus []).setRdata (readRegister s off)) := by
  refine step_settled ((fetch_read s off []).trans ?_)
  rw [fetchRead, if_pos ((alignedOffset_iff off).mpr h)]
  rfl

/-- An aligned write other than to `CMD` goes to the register window (R30). -/
theorem step_regWrite (s : State) {off : Word} (v : Word) (rest : List Request) (h : off.toNat % 4 = 0) (h0 : off ≠ 0) :
    step (s.setBus (.regWrite off v :: rest)) = .next (writeRegister (s.setBus rest) off v) := by
  refine step_settled ((fetch_write s off v rest).trans ?_)
  rw [fetchWrite, if_pos ((alignedOffset_iff off).mpr h), if_neg h0]

/-- A register write neither looks at the pending requests nor changes them. -/
theorem writeRegister_setBus (s : State) (off v : Word) (rest : List Request) :
    writeRegister (s.setBus rest) off v = (writeRegister s off v).setBus rest := by
  rw [writeRegister, writeRegister]
  split
  · rfl
  · split
    · next h => rw [if_pos (show s.regs.status.busy = true from h)]
    · next h => rw [if_neg (show ¬ s.regs.status.busy = true from h)]; rfl

/-! ## Writes while `BUSY` is 1 -/

theorem readCommand_isCommand {bits more : List Bool} {i : Instr} (h : readCommand bits = .ok (i, more)) : IsCommand i := by
  rw [readCommand] at h
  obtain ⟨op, rest, _, h⟩ := BitReader.bind_ok_inv h
  generalize op.toNat = n at h
  match n, h with
  | 1, h => cases h; decide
  | 2, h => cases h; decide
  | 3, h => cases h; decide
  | 4, h => cases h; decide
  | 0, h => cases h
  | n + 5, h => cases h

theorem decode_cmd_isCommand {shr : ShiftWidth} {bytes : List Byte} {i : Instr} (h : decode .cmd shr bytes = .ok i) :
    IsCommand i := by
  rw [decode, decodeBits] at h
  cases hr : readCommand (streamBits bytes) with
  | error e => rw [hr] at h; cases h
  | ok r => rw [hr] at h; cases h; exact readCommand_isCommand hr

theorem exec_command_busy {i : Instr} {s : State} (hi : IsCommand i) (hb : s.regs.status.busy = true) :
    exec i s = .next s := by
  rcases hi with rfl | rfl | rfl | rfl <;> exact runCommand_busy hb

/-- A `CMD` write while a command runs is ignored, legal or not (R31). -/
theorem step_cmd_busy (s : State) (v : Word) (hb : s.regs.status.busy = true) :
    step (s.setBus [.regWrite 0 v]) = .next (s.setBus []) := by
  have hb' : (s.setBus []).regs.status.busy = true := hb
  have hf := fetch_write s 0 v []
  cases hd : decode .cmd (s.setBus []).dp.shr [v.setWidth 8] with
  | ok i => rw [step_run (hf.trans (fetchWrite_command hd)), exec_command_busy (decode_cmd_isCommand hd) hb']
  | error e =>
    refine step_settled (hf.trans ?_)
    rw [fetchWrite, if_pos (by decide), if_pos rfl, hd, illegalCommand, if_pos hb']

/-- Settles O12: of the writes taken while a command runs only that of `LOGLEVEL` has an effect. -/
theorem busyWritesIgnored : Obligations.BusyWritesIgnored := by
  intro s off v hb
  refine ⟨fun halign => ?_, fun i hi => exec_command_busy hi hb⟩
  by_cases h0 : off = 0
  · subst h0
    rw [if_neg (by decide)]
    exact step_cmd_busy s v hb
  · rw [step_regWrite s v [] halign h0, writeRegister_setBus, writeRegister]
    by_cases h : off = 0x38
    · rw [if_pos h, if_pos (by rw [h]; rfl)]
      rfl
    · have hn : ¬ off.toNat = 0x38 := fun hn => h (BitVec.eq_of_toNat_eq hn)
      rw [if_neg h, if_neg hn, if_pos hb]

/-! ## The words of the window -/

theorem toNat_append_eq {m n : Nat} (x : BitVec m) (y : BitVec n) : (x ++ y).toNat = x.toNat * 2 ^ n + y.toNat := by
  rw [BitVec.toNat_append, ← Nat.shiftLeft_add_eq_or_of_lt y.isLt, Nat.shiftLeft_eq]

/-- `STATUS` as a number, field by field (R32). -/
theorem Status.word_toNat (st : Status) : st.word.toNat =
    st.busy.toNat + 2 * st.done.toNat + 16 * st.err.code.toNat + 256 * st.hasTransp.toNat + 512 * st.warn.toNat := by
  simp only [Status.word, toNat_append_eq, BitVec.toNat_ofBool, BitVec.toNat_ofNat]
  omega

/-- `TRANSP` as a number (R37). -/
theorem transpWord_toNat (en : Bool) (color : Byte) :
    (0#23 ++ BitVec.ofBool en ++ color).toNat = color.toNat + 256 * en.toNat := by
  simp only [toNat_append_eq, BitVec.toNat_ofBool, BitVec.toNat_ofNat]
  omega

theorem modeWord_toNat (b : Bool) : (0#31 ++ BitVec.ofBool b).toNat = b.toNat := by
  simp only [toNat_append_eq, BitVec.toNat_ofBool, BitVec.toNat_ofNat]
  omega

/-- A word is known by its number. -/
theorem eq_ofNat_of_toNat {w : Word} {n : Nat} (h : w.toNat = n) : w = BitVec.ofNat 32 n := by
  rw [← h, BitVec.ofNat_toNat, BitVec.setWidth_eq]

/-- Settles O16. -/
theorem errorCodesInStatus : Obligations.ErrorCodesInStatus := by
  intro e h w
  have hh := h.toNat_le
  have hw := (decide (w ≠ 0)).toNat_le
  have hword : (Status.completed e h w).word.toNat =
      2 + 16 * e.code.toNat + 256 * h.toNat + 512 * (decide (w ≠ 0)).toNat := by
    rw [Status.word_toNat]
    simp only [Status.completed, Bool.toNat_false, Bool.toNat_true]
  have hlt : e.code.toNat < 16 := e.code.isLt
  refine ⟨?_, ?_, ?_, ?_, fun s hs => ?_⟩
  · have hcode : (Status.completed e h w).word.toNat / 16 % 16 = e.code.toNat := by rw [hword]; omega
    rw [hcode]
    cases e <;> rfl
  · rw [hword]; omega
  · rw [hword]; omega
  · rw [hword]; omega
  · rw [step_regRead s (by decide), ← hs]
    rfl

/-- The registers that a write leaves alone: all but those of R33 to R40 and R42. -/
theorem writeArgument_ignored (r : Regs) (off v : Word)
    (h : off.toNat ∉ [0x08, 0x0C, 0x10, 0x14, 0x18, 0x1C, 0x20, 0x24, 0x2C]) : r.writeArgument off v = r := by
  rw [Regs.writeArgument]
  split <;> simp_all

theorem writeRegister_ignored (s : State) (off v : Word)
    (h : off.toNat ∉ [0x08, 0x0C, 0x10, 0x14, 0x18, 0x1C, 0x20, 0x24, 0x2C, 0x38]) : writeRegister s off v = s := by
  have h' : off.toNat ∉ [0x08, 0x0C, 0x10, 0x14, 0x18, 0x1C, 0x20, 0x24, 0x2C] ∧ off.toNat ≠ 0x38 := by
    simp only [List.mem_cons, List.not_mem_nil, or_false, not_or] at h ⊢
    omega
  rw [writeRegister, if_neg h'.2, writeArgument_ignored _ _ _ h'.1]
  split <;> rfl

theorem readRegister_reserved (s : State) {off : Word} (h : off.toNat = 0 ∨ 0x3C ≤ off.toNat) : readRegister s off = 0 := by
  rw [readRegister]
  split
  case h_15 => rfl
  all_goals omega

/-- Settles O13. -/
theorem reservedAndReadOnlyOffsets : Obligations.ReservedAndReadOnlyOffsets := by
  intro s off v halign
  refine ⟨fun hoff => ?_, fun hoff => ?_, fun held hheld => ?_⟩
  · have hn : off.toNat ∉ [0x08, 0x0C, 0x10, 0x14, 0x18, 0x1C, 0x20, 0x24, 0x2C, 0x38] ∧ off ≠ 0 := by
      rcases hoff with hmem | hge
      · simp only [List.mem_cons, List.not_mem_nil, or_false] at hmem
        rcases hmem with rfl | rfl | rfl | rfl <;> decide
      · refine ⟨?_, fun h0 => absurd (h0 ▸ hge) (by decide)⟩
        simp only [List.mem_cons, List.not_mem_nil, or_false, not_or]
        omega
    rw [step_regWrite s v [] halign hn.2, writeRegister_ignored _ _ _ hn.1]
  · rw [step_regRead s halign, readRegister_reserved]
    rcases hoff with rfl | h
    · exact .inl rfl
    · exact .inr h
  · rw [step_regRead s halign]
    congr 2
    simp only [List.mem_cons, List.not_mem_nil, or_false, Prod.mk.injEq] at hheld
    rcases hheld with ⟨rfl, rfl⟩ | ⟨rfl, rfl⟩ | ⟨rfl, rfl⟩ | ⟨rfl, rfl⟩
    · exact eq_ofNat_of_toNat (Status.word_toNat _)
    all_goals exact (BitVec.ofNat_toNat ..).symm

/-! ## Registers that read back -/

/-- Truncation to `k` bits and back keeps the low `k` bits. -/
theorem setWidth_setWidth_eq_and (v : Word) {k : Nat} (hk : k ≤ 32) :
    (v.setWidth k).setWidth 32 = v &&& BitVec.ofNat 32 (2 ^ k - 1) := by
  have hpow : 2 ^ k ≤ 2 ^ 32 := Nat.pow_le_pow_right Nat.two_pos hk
  have hpos := Nat.two_pow_pos k
  apply BitVec.eq_of_toNat_eq
  rw [BitVec.toNat_setWidth_of_le hk, BitVec.toNat_setWidth, BitVec.toNat_and, BitVec.toNat_ofNat,
    Nat.mod_eq_of_lt (show 2 ^ k - 1 < 2 ^ 32 by omega), Nat.and_two_pow_sub_one_eq_mod]

theorem transpWord_and (v : Word) :
    0#23 ++ BitVec.ofBool (v.getLsbD 8) ++ v.setWidth 8 = v &&& 0x1FF := by
  apply BitVec.eq_of_toNat_eq
  have hmask : (0x1FF : Word).toNat = 2 ^ 9 - 1 := rfl
  have hbit : (v.getLsbD 8).toNat = v.toNat / 2 ^ 8 % 2 := by
    rw [BitVec.getLsbD, Nat.toNat_testBit]
  rw [transpWord_toNat, BitVec.toNat_and, hmask, Nat.and_two_pow_sub_one_eq_mod, BitVec.toNat_setWidth, hbit]
  omega

theorem modeWord_and (v : Word) : 0#31 ++ BitVec.ofBool (v.getLsbD 0) = v &&& 1 := by
  apply BitVec.eq_of_toNat_eq
  have hmask : (1 : Word).toNat = 2 ^ 1 - 1 := rfl
  have hbit : (v.getLsbD 0).toNat = v.toNat % 2 := by
    rw [BitVec.getLsbD, Nat.toNat_testBit, pow_zero, Nat.div_one]
  rw [modeWord_toNat, BitVec.toNat_and, hmask, Nat.and_two_pow_sub_one_eq_mod, hbit]

/-- The read/write registers and the bits they have (R33 to R42, R45). -/
def writableBits : List (Word × Word) :=
  [(0x08, 0xFFFFFFFF), (0x0C, 0xFFFFFFFF), (0x10, 0xFFFF), (0x14, 0xFFFF), (0x18, 0x1FF), (0x1C, 0xFF),
    (0x20, 0xFFFFFFFF), (0x24, 0xFFFFFFFF), (0x2C, 1), (0x38, 0xFF)]

theorem writeRegister_idle {s : State} {off : Word} (v : Word) (hb : s.regs.status.busy = false) (h : off.toNat ≠ 0x38) :
    writeRegister s off v = s.setRegs (s.regs.writeArgument off v) := by
  rw [writeRegister, if_neg h, hb]
  rfl

theorem writeRegister_loglevel (s : State) (v : Word) :
    writeRegister s 0x38 v = s.setRegs { s.regs with loglevel := v.setWidth 8 } := rfl

/-- A register that was written with no command running reads back the bits it has. -/
theorem readRegister_written {s : State} {off v bits : Word} (hb : s.regs.status.busy = false)
    (h : (off, bits) ∈ writableBits) : readRegister (writeRegister s off v) off = v &&& bits := by
  simp only [writableBits, List.mem_cons, List.not_mem_nil, or_false, Prod.mk.injEq] at h
  rcases h with ⟨rfl, rfl⟩ | ⟨rfl, rfl⟩ | ⟨rfl, rfl⟩ | ⟨rfl, rfl⟩ | ⟨rfl, rfl⟩ | ⟨rfl, rfl⟩ | ⟨rfl, rfl⟩ | ⟨rfl, rfl⟩ |
    ⟨rfl, rfl⟩ | ⟨rfl, rfl⟩
  case' inr.inr.inr.inr.inr.inr.inr.inr.inr => rw [writeRegister_loglevel]; exact setWidth_setWidth_eq_and v (k := 8) (by omega)
  all_goals rw [writeRegister_idle v hb (by decide)]
  · exact setWidth_setWidth_eq_and v (k := 32) (by omega)
  · exact setWidth_setWidth_eq_and v (k := 32) (by omega)
  · exact setWidth_setWidth_eq_and v (k := 16) (by omega)
  · exact setWidth_setWidth_eq_and v (k := 16) (by omega)
  · exact transpWord_and v
  · exact setWidth_setWidth_eq_and v (k := 8) (by omega)
  · exact setWidth_setWidth_eq_and v (k := 32) (by omega)
  · exact setWidth_setWidth_eq_and v (k := 32) (by omega)
  · exact modeWord_and v

/-- A write changes no other register of the window. -/
theorem readRegister_other (s : State) {off off' : Word} (v : Word) (h : off' ≠ off) :
    readRegister (writeRegister s off v) off' = readRegister s off' := by
  have hn : off'.toNat ≠ off.toNat := fun he => h (BitVec.eq_of_toNat_eq he)
  rw [writeRegister]
  split
  · next h38 =>
    rw [h38] at hn
    rw [readRegister, readRegister]
    split <;> simp_all
  split
  · rfl
  rw [Regs.writeArgument]
  split
  case h_10 => rfl
  all_goals
    next hoff =>
    rw [hoff] at hn
    rw [readRegister, readRegister]
    split <;> simp_all

/-- What the read/write registers hold (the table of R30). -/
theorem readRegister_held {s : State} {off : Word} {held : Nat}
    (h : (off, held) ∈ [((0x08 : Word), s.regs.pixBase.toNat), (0x0C, s.regs.stride.toNat), (0x10, s.regs.width.toNat),
      (0x14, s.regs.height.toNat), (0x18, s.regs.transpColor.toNat + 256 * s.regs.transpEn.toNat),
      (0x1C, s.regs.palmod.toNat), (0x20, s.regs.blobBase.toNat), (0x24, s.regs.blobSize.toNat),
      (0x2C, s.regs.modeOr.toNat), (0x38, s.regs.loglevel.toNat)]) :
    off.toNat % 4 = 0 ∧ readRegister s off = BitVec.ofNat 32 held := by
  simp only [List.mem_cons, List.not_mem_nil, or_false, Prod.mk.injEq] at h
  rcases h with ⟨rfl, rfl⟩ | ⟨rfl, rfl⟩ | ⟨rfl, rfl⟩ | ⟨rfl, rfl⟩ | ⟨rfl, rfl⟩ | ⟨rfl, rfl⟩ | ⟨rfl, rfl⟩ | ⟨rfl, rfl⟩ |
    ⟨rfl, rfl⟩ | ⟨rfl, rfl⟩ <;> refine ⟨rfl, ?_⟩
  case inr.inr.inr.inr.inl => exact eq_ofNat_of_toNat (transpWord_toNat _ _)
  case inr.inr.inr.inr.inr.inr.inr.inr.inl => exact eq_ofNat_of_toNat (modeWord_toNat _)
  all_goals exact (BitVec.ofNat_toNat ..).symm

/-- Settles O11. -/
theorem registerWriteReadsBack : Obligations.RegisterWriteReadsBack := by
  refine ⟨fun s off held h => ?_, fun s off v bits hb h => ?_⟩
  · obtain ⟨halign, hread⟩ := readRegister_held h
    rw [step_regRead s halign, hread]
  · have hoff : off.toNat % 4 = 0 ∧ off ≠ 0 := by
      simp only [List.mem_cons, List.not_mem_nil, or_false, Prod.mk.injEq] at h
      rcases h with ⟨rfl, _⟩ | ⟨rfl, _⟩ | ⟨rfl, _⟩ | ⟨rfl, _⟩ | ⟨rfl, _⟩ | ⟨rfl, _⟩ | ⟨rfl, _⟩ | ⟨rfl, _⟩ | ⟨rfl, _⟩ | ⟨rfl, _⟩ <;>
        decide
    refine ⟨writeRegister s off v, ?_, ?_, fun off' hne => readRegister_other s v hne, ?_⟩
    · rw [step_regWrite s v _ hoff.1 hoff.2, writeRegister_setBus]
    · rw [step_regRead _ hoff.1, readRegister_written hb h]
    · rw [writeRegister]
      split
      · rfl
      · split <;> rfl

end Sys2Proof.Machine

namespace Sys2Proof.Machine

/-! ## The Bit Unpacker: filling and reading -/

/-- Bits can be read: the unpacker is within its bounds, a command runs, and the source is in the space. -/
structure State.Readable (s : State) : Prop where
  ok : s.bu.ok
  running : s.Running
  inSpace : s.bu.rend ≤ Config.addrSpace

/-- The unpacker after `BU.FILL` (R107). -/
def State.filled (s : State) : Unpacker :=
  if s.bu.rcnt < 8 ∧ s.bu.rptr < s.bu.rend then s.bu.pull (s.mem.read s.bu.rptr) else s.bu

theorem State.Readable.fill_run {s : State} (h : s.Readable) : unpackerFill.run s = .ok () (s.setBu s.filled) := by
  rw [unpackerFill_run, State.filled]
  split
  · next hp => rw [if_pos ((State.reaches_iff s _).mpr ⟨h.running, hp.2.trans_le h.inSpace⟩)]
  · rw [State.setBu_self]

theorem State.filled_ok {s : State} (h : s.bu.ok) : s.filled.ok := by
  rw [State.filled]
  split
  · next hp => exact Unpacker.pull_ok h hp.1 hp.2 _
  · exact h

/-- A fill moves one byte of the pending bits into the accumulator. -/
theorem State.filled_pending {s : State} (h : s.bu.ok) : (s.setBu s.filled).pending = s.pending := by
  rw [State.filled]
  split
  · next hp =>
    obtain ⟨hcnt, hptr⟩ := hp
    have hrest : s.bu.rend - s.bu.rptr = s.bu.rend - (s.bu.rptr + 1) + 1 := by omega
    have hpull := Unpacker.racc_pull hcnt h.2.1 (s.mem.read s.bu.rptr)
    rw [State.pending, State.pending, hrest, Memory.bytes_succ, streamBits_cons, State.setBu_bu, hpull]
    show bitsOf (s.bu.rcnt + 8) _ ++ _ = _
    rw [bitsOf_parts 8 _ h.2.1, List.append_assoc]
    rfl
  · rfl

/-- A fill never moves the stream cursor (R27). -/
theorem State.filled_cursor {s : State} (h : s.bu.ok) : s.filled.cursor = s.bu.cursor := by
  obtain ⟨_, _, hstart, hheld, _⟩ := h
  rw [State.filled]
  split
  · show 8 * (s.bu.rptr + 1 - s.bu.start) - (s.bu.rcnt + 8) = 8 * (s.bu.rptr - s.bu.start) - s.bu.rcnt
    omega
  · rfl

theorem State.filled_frame (s : State) :
    s.filled.start = s.bu.start ∧ s.filled.rend = s.bu.rend ∧ s.filled.result = s.bu.result := by
  rw [State.filled]
  split <;> exact ⟨rfl, rfl, rfl⟩

theorem State.filled_rptr (s : State) : s.filled.rptr =
    if s.bu.rcnt < 8 ∧ s.bu.rptr < s.bu.rend then s.bu.rptr + 1 else s.bu.rptr := by
  rw [State.filled]
  split <;> rfl

theorem State.filled_rcnt (s : State) : s.filled.rcnt =
    if s.bu.rcnt < 8 ∧ s.bu.rptr < s.bu.rend then s.bu.rcnt + 8 else s.bu.rcnt := by
  rw [State.filled]
  split <;> rfl

/-- Settles O27. -/
theorem unpackerInitAndFill : Obligations.UnpackerInitAndFill := by
  intro s
  refine ⟨fun start stop => runUnit_ok (unpackerInit_run _ _ s), fun hu hrun hend => ?_⟩
  have hs : s.Readable := ⟨hu, hrun, hend⟩
  obtain ⟨hstart, hrend, hresult⟩ := s.filled_frame
  exact ⟨s.filled, runUnit_ok hs.fill_run, State.filled_ok hu, State.filled_cursor hu, State.filled_pending hu,
    s.filled_rptr, s.filled_rcnt, hstart, hrend, hresult⟩

/-- After a fill at least 8 bits are buffered, unless all pending bits are. -/
theorem State.filled_rcnt_lt_iff (s : State) {n : Nat} (hn : n ≤ 8) : s.filled.rcnt < n ↔ s.pending.length < n := by
  rw [State.filled_rcnt, State.pending_length]
  split <;> omega

/-- Taking buffered bits takes them off the pending ones (R108). -/
theorem State.take_pending (s : State) {n : Nat} (hn : n ≤ s.bu.rcnt) :
    (s.setBu (s.bu.take n)).pending = s.pending.drop n := by
  have hacc : (s.bu.take n).racc.toNat = s.bu.racc.toNat / 2 ^ n := by
    rw [Unpacker.take, BitVec.toNat_ushiftRight, Nat.shiftRight_eq_div_pow]
  rw [State.pending, State.pending, State.setBu_bu, hacc, List.drop_append_of_le_length (by rw [bitsOf_length]; exact hn),
    drop_bitsOf hn]
  rfl

/-- The result of a read is the number of the bits taken, the first one least significant (R108). -/
theorem State.take_result (s : State) {n : Nat} (hn : n ≤ s.bu.rcnt) (h8 : n ≤ 8) :
    (s.bu.take n).result.toNat = natOfBits (s.pending.take n) := by
  have hlt : s.bu.racc.toNat % 2 ^ n < 2 ^ 8 :=
    (Nat.mod_lt _ (Nat.two_pow_pos n)).trans_le (Nat.pow_le_pow_right Nat.two_pos h8)
  rw [State.pending, List.take_append_of_le_length (by rw [bitsOf_length]; exact hn), take_bitsOf hn, natOfBits_bitsOf,
    Unpacker.take, BitVec.toNat_setWidth, and_lowMask_toNat _ (by omega), Nat.mod_eq_of_lt hlt]

/-- The unpacker of a state after some bits were taken: within its bounds, on the same source, and the cursor moved by as
many bits as are no longer pending. -/
structure Advanced (s : State) (u : Unpacker) : Prop where
  ok : u.ok
  start : u.start = s.bu.start
  rend : u.rend = s.bu.rend
  cursor : u.cursor + (s.setBu u).pending.length = s.bu.cursor + s.pending.length

/-- A read of `n` bits takes the next `n` bits. -/
theorem State.Readable.readNbits_ok {s : State} (h : s.Readable) {n : Nat} (hn : 1 ≤ n ∧ n ≤ 8)
    (hlen : n ≤ s.pending.length) :
    ∃ u : Unpacker, (readNbits n).run s = .ok u.result (s.setBu u) ∧ u.result.toNat = natOfBits (s.pending.take n) ∧
      (s.setBu u).pending = s.pending.drop n ∧ Advanced s u := by
  have hfill := State.filled_pending h.ok
  have hcnt : n ≤ s.filled.rcnt := not_lt.mp fun hlt => absurd ((s.filled_rcnt_lt_iff hn.2).mp hlt) (not_lt.mpr hlen)
  have hok := State.filled_ok h.ok
  have hpending : (s.setBu (s.filled.take n)).pending = s.pending.drop n := by
    rw [← hfill]
    exact State.take_pending (s.setBu s.filled) hcnt
  obtain ⟨hstart, hrend, _⟩ := s.filled_frame
  refine ⟨s.filled.take n, ?_, ?_, hpending, Unpacker.take_ok hok hcnt, hstart, hrend, ?_⟩
  · rw [readNbits_run hn h.fill_run, State.setBu_bu, if_neg (not_lt.mpr hcnt)]
    rfl
  · rw [← hfill]
    exact State.take_result (s.setBu s.filled) hcnt hn.2
  · obtain ⟨_, _, _, hheld, _⟩ := hok
    have hcursor := State.filled_cursor h.ok
    rw [Unpacker.cursor] at hcursor
    rw [hpending, List.length_drop, ← hcursor]
    show 8 * (s.filled.rptr - s.filled.start) - (s.filled.rcnt - n) + _ = _
    omega

/-- A read of more bits than remain raises `ERR_TRUNC` and takes nothing. -/
theorem State.Readable.readNbits_trunc {s : State} (h : s.Readable) {n : Nat} (hn : 1 ≤ n ∧ n ≤ 8)
    (hlen : s.pending.length < n) : (readNbits n).run s = .error (.raise .trunc) s := by
  have hfilled : s.filled = s.bu := by
    rw [State.pending_length] at hlen
    rw [State.filled, if_neg (by omega)]
  rw [readNbits_run hn h.fill_run, State.setBu_bu, if_pos ((s.filled_rcnt_lt_iff hn.2).mpr hlen), hfilled, State.setBu_self]

/-- Settles O28. -/
theorem unpackerReadsBits : Obligations.UnpackerReadsBits := by
  intro s n i hu hrun hend hi
  have hs : s.Readable := ⟨hu, hrun, hend⟩
  have hn : 1 ≤ n ∧ n ≤ 8 := by
    rcases hi with ⟨_, rfl⟩ | ⟨h1, h8, _⟩
    · exact ⟨le_refl 1, by omega⟩
    · exact ⟨h1, h8⟩
  have hexec : exec i s = runUnit (do let _ ← readNbits n) s := by
    rcases hi with ⟨rfl, rfl⟩ | ⟨_, _, rfl⟩
    · rfl
    · have hcount : (BitVec.ofNat 4 n).toNat = n := by
        rw [BitVec.toNat_ofNat]
        omega
      show runUnit (do let _ ← readNbits (BitVec.ofNat 4 n).toNat) s = _
      rw [hcount]
  refine ⟨fun hlen => ?_, fun hlen => ?_⟩
  · obtain ⟨u, hread, hresult, hpending, hadv⟩ := hs.readNbits_ok hn hlen
    have hcursor := hadv.cursor
    rw [hpending, List.length_drop] at hcursor
    refine ⟨u, ?_, hadv.ok, hresult, hpending, by omega, hadv.start, hadv.rend⟩
    rw [hexec]
    exact runUnit_ok (by rw [EStateM.run_bind, hread]; rfl)
  · rw [hexec]
    exact runUnit_raise (by rw [EStateM.run_bind, hs.readNbits_trunc hn hlen])

/-! ## Stream codes at the cursor -/

theorem Advanced.refl {s : State} (h : s.bu.ok) : Advanced s s.bu := ⟨h, rfl, rfl, rfl⟩

theorem Advanced.trans {s : State} {u w : Unpacker} (h : Advanced s u) (h' : Advanced (s.setBu u) w) : Advanced s w :=
  ⟨h'.ok, h'.start.trans h.start, h'.rend.trans h.rend, h'.cursor.trans h.cursor⟩

theorem Advanced.readable {s : State} {u : Unpacker} (h : Advanced s u) (hs : s.Readable) : (s.setBu u).Readable :=
  ⟨h.ok, hs.running, h.rend.trans_le hs.inSpace⟩

/-- The engine's reads do at the stream cursor what a reader of bit strings does on the pending bits. -/
def Follows {α : Type} (x : BitReader α) (y : Act α) : Prop :=
  ∀ s : State, s.Readable →
    (∀ a more, x s.pending = .ok (a, more) →
      ∃ u, y.run s = .ok a (s.setBu u) ∧ (s.setBu u).pending = more ∧ Advanced s u) ∧
    (x s.pending = .error .truncated → ∃ u, y.run s = .error (.raise .trunc) (s.setBu u))

theorem Follows.pure {α : Type} (a : α) : Follows (Pure.pure a) (Pure.pure a) := by
  refine fun s hs => ⟨fun b more h => ?_, fun h => by cases h⟩
  cases h
  exact ⟨s.bu, rfl, rfl, Advanced.refl hs.ok⟩

theorem Follows.bind {α β : Type} {x : BitReader α} {y : Act α} {f : α → BitReader β} {g : α → Act β} (hx : Follows x y)
    (hf : ∀ a, Follows (f a) (g a)) : Follows (x >>= f) (y >>= g) := by
  intro s hs
  obtain ⟨hok, herr⟩ := hx s hs
  cases hr : x s.pending with
  | error e =>
    rw [BitReader.bind_error hr]
    refine ⟨fun b more h => (by cases h), fun h => ?_⟩
    cases h
    obtain ⟨u, hu⟩ := herr hr
    exact ⟨u, by rw [EStateM.run_bind, hu]⟩
  | ok r =>
    obtain ⟨a, rest⟩ := r
    obtain ⟨u, hu, hpending, hadv⟩ := hok a rest hr
    obtain ⟨hok', herr'⟩ := hf a (s.setBu u) (hadv.readable hs)
    rw [BitReader.bind_ok hr, ← hpending, EStateM.run_bind, hu]
    refine ⟨fun b more h => ?_, fun h => ?_⟩
    · obtain ⟨w, hw, hmore, hadv'⟩ := hok' b more h
      exact ⟨w, hw, hmore, hadv.trans hadv'⟩
    · obtain ⟨w, hw⟩ := herr' h
      exact ⟨w, hw⟩

theorem Follows.ite {α : Type} {c : Prop} [Decidable c] {x x' : BitReader α} {y y' : Act α} (h : Follows x y)
    (h' : Follows x' y') : Follows (if c then x else x') (if c then y else y') := by
  split
  · exact h
  · exact h'

theorem takeBits_eq (n : Nat) (bits : List Bool) : takeBits n bits =
    if bits.length < n then .error .truncated else .ok (BitVec.ofNat 8 (natOfBits (bits.take n)), bits.drop n) := by
  have htake : takeNat n bits = if bits.length < n then .error .truncated else .ok (natOfBits (bits.take n), bits.drop n) := rfl
  split at htake
  · next h => rw [if_pos h]; exact BitReader.bind_error htake
  · next h => rw [if_neg h]; exact BitReader.bind_ok htake

theorem Follows.read {n : Nat} (hn : 1 ≤ n ∧ n ≤ 8) : Follows (takeBits n) (readNbits n) := by
  intro s hs
  rw [takeBits_eq]
  split
  · next hlen =>
    exact ⟨fun _ _ h => (by cases h), fun _ => ⟨s.bu, hs.readNbits_trunc hn hlen⟩⟩
  · next hlen =>
    refine ⟨fun a more h => ?_, fun h => by cases h⟩
    cases h
    obtain ⟨u, hread, hresult, hpending, hadv⟩ := hs.readNbits_ok hn (not_lt.mp hlen)
    refine ⟨u, ?_, hpending, hadv⟩
    rw [hread, ← hresult, BitVec.ofNat_toNat, BitVec.setWidth_eq]

theorem ShiftWidth.toNat_bounds (w : ShiftWidth) : 1 ≤ w.toNat ∧ w.toNat ≤ 8 := by cases w <;> decide

/-- Families A and A6 have one code tree for the decoder and the engine (R88). -/
theorem Follows.acode (shr : ShiftWidth) : Follows (readACode shr) (walkA readNbits shr
    { rep := Pure.pure .aRep, lit := fun v => Pure.pure (.aLit v), delta := fun d => Pure.pure (.aDelta d),
      run := fun n => Pure.pure (.aRun n) }) := by
  refine (Follows.read (by omega)).bind fun b0 => Follows.ite (Follows.pure _) ?_
  refine (Follows.read (by omega)).bind fun b1 => Follows.ite ?_ ?_
  · exact (Follows.read (ShiftWidth.toNat_bounds shr)).bind fun v => Follows.pure _
  · refine (Follows.read (by omega)).bind fun f => Follows.ite (Follows.pure _) ?_
    exact (Follows.read (by omega)).bind fun n => Follows.pure _

/-- Families B and C have one code tree for the decoder and the engine (R88). -/
theorem Follows.bcode (shr : ShiftWidth) : Follows (readBCode shr) (walkB readNbits shr
    { rep := Pure.pure .bRep, lit := fun v => Pure.pure (.bLit v), step := Pure.pure .bStep, rev := Pure.pure .bRev }) := by
  refine (Follows.read (by omega)).bind fun b0 => Follows.ite (Follows.pure _) ?_
  refine (Follows.read (by omega)).bind fun b1 => Follows.ite ?_ ?_
  · exact (Follows.read (ShiftWidth.toNat_bounds shr)).bind fun v => Follows.pure _
  · exact (Follows.read (by omega)).bind fun b2 => Follows.ite (Follows.pure _) (Follows.pure _)

/-- A request answered by the engine's own reads runs what a reader of the pending bits finds. -/
theorem step_fetchBy {s t : State} {x : BitReader Instr} {read : Act Instr} (hfetch : fetch s = fetchBy read t)
    (hread : ∃ y, Follows x y ∧ read.run t = y.run t) (ht : t.Readable) :
    (∀ i more, x t.pending = .ok (i, more) →
      ∃ u, step s = exec i (t.setBu u) ∧ (t.setBu u).pending = more ∧ Advanced t u) ∧
    (x t.pending = .error .truncated → ∃ u, step s = .next (raiseError .trunc (t.setBu u))) := by
  obtain ⟨y, hfollows, hrun⟩ := hread
  obtain ⟨hok, herr⟩ := hfollows t ht
  refine ⟨fun i more h => ?_, fun h => ?_⟩
  · obtain ⟨u, hu, hmore, hadv⟩ := hok i more h
    refine ⟨u, step_run (hfetch.trans ?_), hmore, hadv⟩
    rw [fetchBy, hrun, hu]
  · obtain ⟨u, hu⟩ := herr h
    refine ⟨u, step_settled (hfetch.trans ?_)⟩
    rw [fetchBy, hrun, hu]
    rfl

/-- Settles O7. -/
theorem stepRunsStreamCode : Obligations.StepRunsStreamCode := by
  intro s rest f hf hinv hrun hend
  have ht : (s.setBus rest).Readable := ⟨hinv.2.2.1, hrun, hend⟩
  have hstep : (∀ i more, decodeBits f s.dp.shr s.pending = .ok (i, more) →
      ∃ u, step s = exec i ((s.setBus rest).setBu u) ∧ ((s.setBus rest).setBu u).pending = more ∧
        Advanced (s.setBus rest) u) ∧
      (decodeBits f s.dp.shr s.pending = .error .truncated →
        ∃ u, step s = .next (raiseError .trunc ((s.setBus rest).setBu u))) := by
    rcases hf with ⟨rfl, hbus⟩ | ⟨rfl, hbus⟩
    · exact step_fetchBy (fetch_cons hbus) ⟨_, Follows.acode s.dp.shr, rfl⟩ ht
    · exact step_fetchBy (fetch_cons hbus) ⟨_, Follows.bcode s.dp.shr, rfl⟩ ht
  refine ⟨fun i more h => ?_, hstep.2⟩
  obtain ⟨u, hexec, hmore, hadv⟩ := hstep.1 i more h
  refine ⟨u, hexec, hmore, hadv.ok, hadv.start, hadv.rend, ?_⟩
  rw [← hmore]
  exact hadv.cursor

end Sys2Proof.Machine

namespace Sys2Proof.Machine

/-! ## The codes that the encoders write -/

/-- What an encoder's loop does from registers `e` over pixels `ps` to registers `r`: it writes the bits of `codes`, ends on
the last pixel with the direction the codes leave, and counts the pixels. -/
structure Encoded (shr : ShiftWidth) (e : Enc) (ps : List Byte) (codes : List Instr) (r : Enc) : Prop where
  color : r.color = ps.getLastD e.color
  inc : r.inc = (lastColor e.color e.inc codes).2
  k : r.k = e.k + ps.length
  ok : r.bp.ok
  bits : r.bp.bits = e.bp.bits ++ codes.flatMap (encodeBits shr)

theorem Encoded.nil (shr : ShiftWidth) {e : Enc} (h : e.bp.ok) : Encoded shr e [] [] e :=
  ⟨rfl, rfl, rfl, h, by rw [List.flatMap_nil, List.append_nil]⟩

theorem getLastD_append {α : Type} (l l' : List α) (a : α) : (l ++ l').getLastD a = l'.getLastD (l.getLastD a) := by
  induction l generalizing a with
  | nil => rfl
  | cons b l ih => rw [List.cons_append, List.getLastD_cons, List.getLastD_cons, ih]

theorem getLastD_replicate {α : Type} (n : Nat) (a : α) : (List.replicate n a).getLastD a = a := by
  induction n with
  | zero => rfl
  | succ n ih => rw [List.replicate_succ, List.getLastD_cons, ih]

/-- One code more at the front: it stands for the pixels `taken`, the last of which is its colour. -/
theorem Encoded.cons {shr : ShiftWidth} {e e' r : Enc} {taken ps : List Byte} {i : Instr} {codes : List Instr}
    (h : Encoded shr e' ps codes r) (hnext : (e'.color, e'.inc) = nextColor e.color e.inc i)
    (hlast : taken.getLastD e.color = e'.color) (hk : e'.k = e.k + taken.length)
    (hbits : e'.bp.bits = e.bp.bits ++ encodeBits shr i) : Encoded shr e (taken ++ ps) (i :: codes) r := by
  refine ⟨?_, ?_, ?_, h.ok, ?_⟩
  · rw [h.color, ← hlast, getLastD_append]
  · rw [h.inc, lastColor, lastColor, List.foldl_cons, ← hnext]
  · rw [h.k, hk, List.length_append, Nat.add_assoc]
  · rw [h.bits, hbits, List.flatMap_cons, List.append_assoc]

/-! ### Bits of one code -/

section
variable {p : Packer} (hp : p.ok)
include hp

theorem Packer.writeDelta_spec (d : Int) : (p.writeDelta d).ok ∧ (p.writeDelta d).bits = p.bits ++ deltaBits d := by
  obtain ⟨hok₁, hbits₁⟩ := Packer.writeBit_spec hp true
  obtain ⟨hok₂, hbits₂⟩ := Packer.writeBit_spec hok₁ true
  obtain ⟨hok₃, hbits₃⟩ := Packer.writeNbits_spec hok₂ (BitVec.ofNat 8 (fieldOfDelta Config.deltaCoding d)) (n := 3) (by omega)
  have hfield : bitsOf 3 (BitVec.ofNat 8 (fieldOfDelta Config.deltaCoding d)).toNat =
      bitsOf 3 (fieldOfDelta Config.deltaCoding d) := by
    rw [BitVec.toNat_ofNat, ← bitsOf_mod 3, Nat.mod_mod_of_dvd _ (by decide), bitsOf_mod]
  refine ⟨hok₃, hbits₃.trans ?_⟩
  rw [hbits₂, hbits₁, hfield, deltaBits, List.append_assoc, List.append_assoc]
  rfl

theorem Packer.writeLit_spec (v : Byte) (shr : ShiftWidth) :
    (p.writeLit v shr).ok ∧ (p.writeLit v shr).bits = p.bits ++ ([true, false] ++ bitsOf shr.toNat v.toNat) := by
  obtain ⟨hok₁, hbits₁⟩ := Packer.writeBit_spec hp true
  obtain ⟨hok₂, hbits₂⟩ := Packer.writeBit_spec hok₁ false
  obtain ⟨hok₃, hbits₃⟩ := Packer.writeNbits_spec hok₂ v (n := shr.toNat) (by cases shr <;> decide)
  refine ⟨hok₃, hbits₃.trans ?_⟩
  rw [hbits₂, hbits₁, List.append_assoc, List.append_assoc]
  rfl

theorem Packer.writeRun_spec (n : Byte) : ((p.writeDelta 0).writeByte n).ok ∧
    ((p.writeDelta 0).writeByte n).bits = p.bits ++ (deltaBits 0 ++ bitsOf 8 n.toNat) := by
  obtain ⟨hok₁, hbits₁⟩ := Packer.writeDelta_spec hp 0
  obtain ⟨hok₂, hbits₂⟩ := Packer.writeNbits_spec hok₁ n (n := 8) (by omega)
  exact ⟨hok₂, hbits₂.trans (by rw [hbits₁, List.append_assoc])⟩

theorem Packer.writeThree_spec (b : Bool) : (((p.writeBit true).writeBit true).writeBit b).ok ∧
    (((p.writeBit true).writeBit true).writeBit b).bits = p.bits ++ [true, true, b] := by
  obtain ⟨hok₁, hbits₁⟩ := Packer.writeBit_spec hp true
  obtain ⟨hok₂, hbits₂⟩ := Packer.writeBit_spec hok₁ true
  obtain ⟨hok₃, hbits₃⟩ := Packer.writeBit_spec hok₂ b
  refine ⟨hok₃, hbits₃.trans ?_⟩
  rw [hbits₂, hbits₁, List.append_assoc, List.append_assoc]
  rfl

end

/-! ### Families A and A6 -/

/-- The leading pixels that a run counts have its colour. -/
theorem take_runLength (c : Byte) {m : Nat} {ps : List Byte} (h : m ≤ runLength c ps) : ps.take m = List.replicate m c := by
  induction m generalizing ps with
  | zero => rfl
  | succ m ih =>
    cases ps with
    | nil => cases h
    | cons p ps =>
      rw [runLength] at h
      split at h
      · next hpc => rw [List.take_succ_cons, hpc, ih (by omega), List.replicate_succ]
      · omega

/-- Pixels that belong to the last run have no codes of their own. -/
theorem codesA_skip (escape : Bool) (m : Nat) (c : Byte) (ps : List Byte) :
    codesA escape m c ps = codesA escape 0 c (ps.drop m) := by
  induction m generalizing ps with
  | zero => rfl
  | succ m ih =>
    cases ps with
    | nil => rw [List.drop_nil, codesA, codesA]
    | cons p ps => rw [codesA, ih, List.drop_succ_cons]

/-- A run-length escape for `m` of the pixels that a run counts. -/
theorem Encoded.run {escape : Bool} {shr : ShiftWidth} {e r : Enc} {p : Byte} {ps : List Byte} {m : Nat} (h1 : 1 ≤ m)
    (hm : m ≤ runLength e.color (p :: ps)) (he : e.bp.ok)
    (h : Encoded shr { e with k := e.k + m, bp := (e.bp.writeDelta 0).writeByte (BitVec.ofNat 8 m) } ((p :: ps).drop m)
      (codesA escape 0 e.color ((p :: ps).drop m)) r) :
    Encoded shr e (p :: ps) (.aRun (BitVec.ofNat 8 m) :: codesA escape (m - 1) e.color ps) r := by
  have htake := take_runLength e.color hm
  have hdrop : (p :: ps).drop m = ps.drop (m - 1) := by
    rw [show m = m - 1 + 1 by omega, List.drop_succ_cons, Nat.add_sub_cancel]
  have hall := h.cons (e := e) (taken := (p :: ps).take m) (i := .aRun (BitVec.ofNat 8 m)) rfl
    (by rw [htake, getLastD_replicate]) (by rw [htake, List.length_replicate])
    (Packer.writeRun_spec he (BitVec.ofNat 8 m)).2
  rwa [List.take_append_drop, hdrop, ← codesA_skip] at hall

/-- The loop of R130 and R131 writes the codes of the rule. -/
theorem encodeALoop_spec (escape : Bool) (shr : ShiftWidth) (n : Nat) (e : Enc) (ps : List Byte) (hn : ps.length ≤ n)
    (he : e.bp.ok) : Encoded shr e ps (codesA escape 0 e.color ps) (encodeALoop escape shr n e ps) := by
  induction n generalizing e ps with
  | zero =>
    rw [List.length_eq_zero_iff.mp (Nat.le_zero.mp hn)]
    exact Encoded.nil shr he
  | succ n ih =>
    cases ps with
    | nil => exact Encoded.nil shr he
    | cons p ps =>
      rw [List.length_cons] at hn
      rw [encodeALoop, codesA]
      by_cases hpc : p = e.color
      · rw [if_pos hpc, if_pos hpc]
        by_cases hesc : (escape && decide (Config.runThreshold ≤ runLength e.color (p :: ps))) = true
        · have hesc' : (escape && decide (13 ≤ runLength e.color (p :: ps))) = true := hesc
          rw [if_pos hesc, if_pos hesc']
          have hrun : 13 ≤ runLength e.color (p :: ps) := of_decide_eq_true (Bool.and_eq_true_iff.mp hesc').2
          refine Encoded.run (by omega) (min_le_left _ _) he ?_
          exact ih { e with
            k := e.k + min (runLength e.color (p :: ps)) Config.runMax
            bp := (e.bp.writeDelta 0).writeByte (BitVec.ofNat 8 (min (runLength e.color (p :: ps)) Config.runMax)) }
            _ (by rw [List.length_drop, List.length_cons]; omega) (Packer.writeRun_spec he _).1
        · have hesc' : ¬ (escape && decide (13 ≤ runLength e.color (p :: ps))) = true := hesc
          rw [if_neg hesc, if_neg hesc']
          obtain ⟨hok, hbits⟩ := Packer.writeBit_spec he false
          exact (ih { e with k := e.k + 1, bp := e.bp.writeBit false } ps (by omega) hok).cons (taken := [p]) rfl hpc rfl hbits
      · rw [if_neg hpc, if_neg hpc]
        by_cases hdelta : -4 ≤ deltaTo e.color p ∧ deltaTo e.color p ≤ 3
        · have hdelta' : -4 ≤ (p - e.color).toInt ∧ (p - e.color).toInt ≤ 3 := hdelta
          rw [if_pos hdelta, if_pos hdelta']
          obtain ⟨hok, hbits⟩ := Packer.writeDelta_spec he (deltaTo e.color p)
          have hcolor : e.color + BitVec.ofInt 8 (p - e.color).toInt = p := by
            rw [BitVec.ofInt_toInt, BitVec.add_comm, BitVec.sub_add_cancel]
          exact (ih { e with color := p, k := e.k + 1, bp := e.bp.writeDelta (deltaTo e.color p) } ps (by omega) hok).cons
            (taken := [p]) (by rw [nextColor, hcolor]) rfl rfl hbits
        · have hdelta' : ¬ (-4 ≤ (p - e.color).toInt ∧ (p - e.color).toInt ≤ 3) := hdelta
          rw [if_neg hdelta, if_neg hdelta']
          obtain ⟨hok, hbits⟩ := Packer.writeLit_spec he p shr
          exact (ih { e with color := p, k := e.k + 1, bp := e.bp.writeLit p shr } ps (by omega) hok).cons
            (taken := [p]) rfl rfl rfl hbits

/-! ### Families B and C -/

theorem sub_toByte_eq (c : Byte) (d : Dir) : c - d.toByte = c + d.flip.toByte := by
  cases d
  · show c - 255 = c + 1; bv_omega
  · show c - 1 = c + 255; bv_omega

/-- The loop of R140 and R141 writes the codes of the rule. -/
theorem encodeBLoop_spec (shr : ShiftWidth) (e : Enc) (ps : List Byte) (he : e.bp.ok) :
    Encoded shr e ps (codesB e.inc e.color ps) (encodeBLoop shr e ps) := by
  induction ps generalizing e with
  | nil => exact Encoded.nil shr he
  | cons p ps ih =>
    rw [encodeBLoop, codesB]
    split
    · next hpc =>
      obtain ⟨hok, hbits⟩ := Packer.writeBit_spec he false
      exact (ih { e with k := e.k + 1, bp := e.bp.writeBit false } hok).cons (taken := [p]) rfl hpc rfl hbits
    split
    · next hstep =>
      obtain ⟨hok, hbits⟩ := Packer.writeThree_spec he false
      exact (ih { e with color := p, k := e.k + 1, bp := ((e.bp.writeBit true).writeBit true).writeBit false } hok).cons
        (taken := [p]) (by rw [nextColor, ← hstep]) rfl rfl hbits
    split
    · next hrev =>
      obtain ⟨hok, hbits⟩ := Packer.writeThree_spec he true
      exact (ih { color := p, inc := e.inc.flip, k := e.k + 1, bp := ((e.bp.writeBit true).writeBit true).writeBit true }
        hok).cons (taken := [p]) (by rw [nextColor, ← sub_toByte_eq, ← hrev]) rfl rfl hbits
    · obtain ⟨hok, hbits⟩ := Packer.writeLit_spec he p shr
      exact (ih { color := p, inc := .down, k := e.k + 1, bp := e.bp.writeLit p shr } hok).cons
        (taken := [p]) rfl rfl rfl hbits

/-! ### A stripe -/

theorem Enc.start_spec (p0 : Byte) : (Enc.start p0).bp.ok ∧ (Enc.start p0).bp.bits = bitsOf 8 p0.toNat :=
  Packer.writeNbits_spec Packer.init_ok p0 (by omega)

/-- The registers after an encoder's flush (R79, R105). -/
theorem Encoded.flush {shr : ShiftWidth} {p0 : Byte} {ps : List Byte} {codes : List Instr} {r : Enc}
    (h : Encoded shr (Enc.start p0) ps codes r) : ({ r with bp := r.bp.flush } : Enc) =
      { color := ps.getLastD p0
        inc := (lastColor p0 .down codes).2
        k := 1 + ps.length
        bp := { wacc := 0, wcnt := 0, wout := packBits (streamOf shr p0 codes) } } := by
  rw [Packer.flush_eq h.ok, h.bits, (Enc.start_spec p0).2, h.color, h.inc, h.k]
  rfl

/-- The encoder of a family as a function of the pixels (R130, R131, R140, R141). -/
def encoderOf : Family → ShiftWidth → Byte → List Byte → Enc
  | .a => encodeA true
  | .a6 => encodeA false
  | .b | .c => encodeB

theorem encoderOf_eq (f : Family) (shr : ShiftWidth) (p0 : Byte) (ps : List Byte) : encoderOf f shr p0 ps =
    { color := ps.getLastD p0
      inc := (lastColor p0 .down (codesOf f p0 ps)).2
      k := 1 + ps.length
      bp := { wacc := 0, wcnt := 0, wout := packBits (streamOf shr p0 (codesOf f p0 ps)) } } := by
  have hstart := (Enc.start_spec p0).1
  cases f
  · exact (encodeALoop_spec true shr ps.length (Enc.start p0) ps le_rfl hstart).flush
  · exact (encodeALoop_spec false shr ps.length (Enc.start p0) ps le_rfl hstart).flush
  · exact (encodeBLoop_spec shr (Enc.start p0) ps hstart).flush
  · exact (encodeBLoop_spec shr (Enc.start p0) ps hstart).flush

theorem exec_encoderInstr (f : Family) (st : Dim) (s : State) :
    exec (encoderInstr f st) s = runUnit (encodeStripe st.toNat f (encoderOf f)) s := by
  cases f <;> rfl

/-! ### Reading a stripe -/

theorem readPixels_run (s : State) (f : Family) (n k : Nat)
    (h : ∀ j, k ≤ j → j < k + n → s.reaches (s.pixelAddr f j) = true) :
    (readPixels f n k).run s = .ok ((List.range' k n).map fun j => s.mem.read (s.pixelAddr f j)) s := by
  induction n generalizing k with
  | zero => rfl
  | succ n ih =>
    have hfirst : (readByte (s.pixelAddr f k)).run s = .ok (s.mem.read (s.pixelAddr f k)) s := by
      rw [readByte_run, if_pos (h k (le_refl k) (by omega))]
    have hrest := ih (k + 1) fun j hj hj' => h j (by omega) (by omega)
    rw [readPixels, List.range'_succ, List.map_cons]
    simp only [EStateM.run_bind, EStateM.run_get, hfirst, hrest, EStateM.run_pure]

/-- The pixels of a stripe of the picture are the bytes at their places (R51, R125, R128). -/
theorem stripeOf_picture (s : State) (f : Family) (st : Nat) : stripeOf s.picture s.regs.height.toNat f st =
    (List.range s.npix).map fun k => s.mem.read ((s.onStripe st).pixelAddr f k) := by
  refine List.map_congr_left fun k _ => ?_
  rw [State.picture, State.pixelAddr, State.stripeAddr, ← Nat.add_assoc]
  rfl

/-- A stripe encoder on a stripe that is reached. -/
theorem encodeStripe_run {s : State} {f : Family} {st : Nat} {p0 : Byte} {ps : List Byte} (hr : s.StripeReachable f st)
    (hpix : stripeOf s.picture s.regs.height.toNat f st = p0 :: ps) (enc : ShiftWidth → Byte → List Byte → Enc) :
    (encodeStripe st f enc).run s = (storeEnc (enc s.dp.shr p0 ps)).run (s.beginning f false st) := by
  obtain ⟨hrun, haddr⟩ := hr
  have hreach (k : Nat) (hk : k < s.npix) : (s.beginning f false st).reaches ((s.beginning f false st).pixelAddr f k) = true :=
    (State.reaches_iff _ _).mpr ⟨hrun, haddr k hk⟩
  rw [stripeOf_picture] at hpix
  have hlen : s.npix = ps.length + 1 := by
    have := congrArg List.length hpix
    rwa [List.length_map, List.length_range, List.length_cons] at this
  rw [List.range_eq_range', hlen, List.range'_succ, List.map_cons, List.cons.injEq] at hpix
  obtain ⟨hfirst, hrest⟩ := hpix
  have hread₀ : (readByte ((s.beginning f false st).pixelAddr f 0)).run (s.beginning f false st) =
      .ok p0 (s.beginning f false st) := by
    rw [readByte_run, if_pos (hreach 0 (by omega)), ← hfirst]
    rfl
  have hread : (readPixels f (s.npix - 1) 1).run (s.beginning f false st) = .ok ps (s.beginning f false st) := by
    rw [readPixels_run _ _ _ _ fun j _ hj => hreach j (by omega), ← hrest, hlen]
    rfl
  have hbegin : (beginStripe st f false).run s = .ok () (s.beginning f false st) := beginStripe_run st f false s
  have hnpix : (s.beginning f false st).npix = s.npix := rfl
  have hshr : (s.beginning f false st).dp.shr = s.dp.shr := rfl
  rw [encodeStripe]
  simp only [EStateM.run_bind, hbegin, EStateM.run_get, hread₀, hnpix, hread, hshr]

/-- Settles O35. -/
theorem stripeEncoders : Obligations.StripeEncoders := by
  intro s f st p0 ps _ hr hpix
  have hk : 1 + ps.length = s.npix := by
    have := congrArg List.length hpix
    rw [stripeOf_picture, List.length_map, List.length_range, List.length_cons] at this
    omega
  rw [exec_encoderInstr]
  refine runUnit_ok (u := ()) ((encodeStripe_run hr hpix _).trans ?_)
  rw [encoderOf_eq, hk]
  rfl

end Sys2Proof.Machine

/-! ## Two runs of one piece of pseudocode, side by side

The invariant (O18), the independence of `LOGLEVEL` (O20) and the independence of the working registers (O21) are facts about
two runs of the same pseudocode from related states; one walk over the pseudocode serves all three. -/

namespace Sys2Proof.Machine

/-- Two runs end alike: with one value in states related by `Q`, or with one stop in states related by `E` of that stop. -/
def Alike {α : Type} (E : Stop → State → State → Prop) (Q : State → State → Prop) :
    EStateM.Result Stop State α → EStateM.Result Stop State α → Prop
  | .ok a s, .ok b t => a = b ∧ Q s t
  | .error e s, .error e' t => e = e' ∧ E e s t
  | _, _ => False

/-- From any two states related by `R` the runs of `x` end alike. -/
def Sim {α : Type} (E : Stop → State → State → Prop) (R Q : State → State → Prop) (x : Act α) : Prop :=
  ∀ ⦃s t : State⦄, R s t → Alike E Q (x.run s) (x.run t)

section
variable {α β : Type} {E : Stop → State → State → Prop} {R M Q : State → State → Prop}

theorem Alike.weaken {Q' : State → State → Prop} (hQ : ∀ s t, Q s t → Q' s t) {r r' : EStateM.Result Stop State α}
    (h : Alike E Q r r') : Alike E Q' r r' := by
  cases r <;> cases r'
  · exact ⟨h.1, hQ _ _ h.2⟩
  · exact h
  · exact h
  · exact h

theorem Sim.weaken {Q' : State → State → Prop} {x : Act α} (h : Sim E R Q x) (hQ : ∀ s t, Q s t → Q' s t) :
    Sim E R Q' x :=
  fun _ _ hst => (h hst).weaken hQ

theorem Sim.pure (a : α) : Sim E R R (Pure.pure a) := fun _ _ h => ⟨rfl, h⟩

theorem Sim.throw {e : Stop} (h : ∀ s t, R s t → E e s t) : Sim E R Q (MonadExcept.throw e : Act α) :=
  fun s t hst => ⟨rfl, h s t hst⟩

theorem Sim.bind {x : Act α} {f : α → Act β} (hx : Sim E R M x) (hf : ∀ a, Sim E M Q (f a)) : Sim E R Q (x >>= f) := by
  intro s t hst
  have h := hx hst
  rw [EStateM.run_bind, EStateM.run_bind]
  cases hs : x.run s <;> cases ht : x.run t <;> rw [hs, ht] at h
  · obtain ⟨rfl, hM⟩ := h
    exact hf _ hM
  · exact h.elim
  · exact h.elim
  · exact h

/-- A program that continues from what it sees of the state: the two states must show it the same. -/
theorem Sim.get_bind {f : State → Act α} (hf : ∀ s t, R s t → f t = f s) (h : ∀ s, Sim E R Q (f s)) :
    Sim E R Q (MonadState.get >>= f) := by
  intro s t hst
  have hrun : Alike E Q ((f s).run s) ((f t).run t) := by rw [hf s t hst]; exact h s hst
  exact hrun

theorem Sim.update {f : State → State} (h : ∀ s t, R s t → Q (f s) (f t)) : Sim E R Q (modify f) :=
  fun s t hst => ⟨rfl, h s t hst⟩

theorem Sim.ite {c : Prop} [Decidable c] {x y : Act α} (hx : c → Sim E R Q x) (hy : ¬ c → Sim E R Q y) :
    Sim E R Q (if c then x else y) := by
  split
  · next h => exact hx h
  · next h => exact hy h

theorem Sim.loop {cond : State → Bool} {body : Act Unit} (hc : ∀ s t, R s t → cond t = cond s)
    (hb : Sim E R R body) (n : Nat) : Sim E R R (whileUpTo cond body n) := by
  induction n with
  | zero => exact Sim.pure ()
  | succ n ih =>
    refine Sim.get_bind (fun s t h => by simp only [hc s t h]) fun s => ?_
    exact Sim.ite (fun _ => hb.bind fun _ => ih) fun _ => Sim.pure ()

theorem Sim.each {body : Nat → Act Unit} (hb : ∀ i, Sim E R R (body i)) (n i : Nat) :
    Sim E R R (eachFrom body n i) := by
  induction n generalizing i with
  | zero => exact Sim.pure ()
  | succ n ih => exact (hb i).bind fun _ => ih (i + 1)

/-- The code tree of Family A keeps a relation when its reads and its four ends do. -/
theorem Sim.walk_familyA {read : Nat → Act Byte} {cases : ACases (Act α)} (shr : ShiftWidth) (hr : ∀ n, Sim E R R (read n))
    (hrep : Sim E R Q cases.rep) (hlit : ∀ v, Sim E R Q (cases.lit v)) (hdelta : ∀ d, Sim E R Q (cases.delta d))
    (hrun : ∀ n, Sim E R Q (cases.run n)) : Sim E R Q (walkA read shr cases) := by
  refine (hr 1).bind fun b0 => Sim.ite (fun _ => hrep) fun _ => (hr 1).bind fun b1 => ?_
  refine Sim.ite (fun _ => (hr _).bind hlit) fun _ => (hr 3).bind fun f => ?_
  exact Sim.ite (fun _ => hdelta _) fun _ => (hr 8).bind hrun

theorem Sim.walk_familyB {read : Nat → Act Byte} {cases : BCases (Act α)} (shr : ShiftWidth) (hr : ∀ n, Sim E R R (read n))
    (hrep : Sim E R Q cases.rep) (hlit : ∀ v, Sim E R Q (cases.lit v)) (hstep : Sim E R Q cases.step)
    (hrev : Sim E R Q cases.rev) : Sim E R Q (walkB read shr cases) := by
  refine (hr 1).bind fun b0 => Sim.ite (fun _ => hrep) fun _ => (hr 1).bind fun b1 => ?_
  refine Sim.ite (fun _ => (hr _).bind hlit) fun _ => (hr 1).bind fun b2 => ?_
  exact Sim.ite (fun _ => hstep) fun _ => hrev

theorem Sim.walk_maskRun {next : Act Byte} {cases : MCases (Act α)} (hn : Sim E R R next)
    (hrep : ∀ n v, Sim E R Q (cases.rep n v)) (hlit : ∀ n, Sim E R Q (cases.lit n)) (h0 : Sim E R Q cases.rsvLit0)
    (h80 : Sim E R Q cases.rsvRep0) : Sim E R Q (walkM next cases) := by
  refine hn.bind fun h => Sim.ite (fun _ => h0) fun _ => Sim.ite (fun _ => h80) fun _ => ?_
  exact Sim.ite (fun _ => hlit _) fun _ => hn.bind fun v => hrep _ v

end

end Sys2Proof.Machine

namespace Sys2Proof.Machine

/-! ## Relations that the shared pseudocode keeps -/

/-- The registers that pseudocode reads: all but `LOGLEVEL` and `OUT_LEN`. -/
def Regs.seen (r : Regs) : Regs := { r with outLen := 0, loglevel := 0 }

/-- The Bit Unpacker without the result of its last read, which no operation reads. -/
def Unpacker.source (u : Unpacker) : Unpacker := { u with result := 0 }

variable {E : Stop → State → State → Prop} {R Q : State → State → Prop}

/-- Whether a stop puts the stripe index in `ERR_INFO` (R211). -/
def Stop.namesStripe : Stop → Bool
  | .raise e => e.namesStripe
  | .fault _ | .refuse _ => false

/-- A relation between states that agree on the registers read and on memory, and that a byte written to both keeps. -/
structure Reaching (E : Stop → State → State → Prop) (R : State → State → Prop) : Prop where
  quiet : ∀ {s t} (e : Stop), e.namesStripe = false → R s t → E e s t
  regs : ∀ {s t}, R s t → t.regs.seen = s.regs.seen
  mem : ∀ {s t}, R s t → t.mem = s.mem
  write : ∀ {s t} (a : Nat) (v : Byte), a < Config.addrSpace → R s t →
    R (s.setMem (s.mem.write a v)) (t.setMem (t.mem.write a v))

/-- The states agree on the stripe as well, so that every stop is alike. -/
structure OnStripe (E : Stop → State → State → Prop) (R : State → State → Prop) : Prop extends Reaching E R where
  stop : ∀ {s t} (e : Stop), R s t → E e s t
  stripe : ∀ {s t}, R s t → t.sel.stripe = s.sel.stripe

/-- A relation that the Bit Unpacker keeps. -/
structure Unpacking (E : Stop → State → State → Prop) (R : State → State → Prop) : Prop extends OnStripe E R where
  bu : ∀ {s t}, R s t → t.bu.source = s.bu.source
  pull : ∀ {s t} (b : Byte), s.bu.rcnt < 8 → s.bu.rptr < s.bu.rend → R s t →
    R (s.setBu (s.bu.pull b)) (t.setBu (t.bu.pull b))
  take : ∀ {s t} (n : Nat), n ≤ s.bu.rcnt → R s t → R (s.setBu (s.bu.take n)) (t.setBu (t.bu.take n))

/-- The states agree on the selects too, so that a pixel has one place. -/
structure Placing (E : Stop → State → State → Prop) (R : State → State → Prop) : Prop extends Unpacking E R where
  fam : ∀ {s t}, R s t → t.dp.fam = s.dp.fam
  tr : ∀ {s t}, R s t → t.dp.tr = s.dp.tr

/-- A relation that stripe decoders and stream codes keep. -/
structure Decoding (E : Stop → State → State → Prop) (R : State → State → Prop) : Prop extends Placing E R where
  dp : ∀ {s t}, R s t → t.dp = s.dp
  setDp : ∀ {s t} (f : Datapath → Datapath), (∀ d, d.run ≤ 255 → (f d).run ≤ 255) → R s t →
    R (s.setDp (f s.dp)) (t.setDp (f t.dp))

/-- A relation that mask runs keep. -/
structure Unmasking (E : Stop → State → State → Prop) (R : State → State → Prop) : Prop extends OnStripe E R where
  mptr : ∀ {s t}, R s t → t.mask.mptr = s.mask.mptr
  row : ∀ {s t}, R s t → t.mask.y = s.mask.y
  setMptr : ∀ {s t} (p : Nat), R s t → R (s.setMask { s.mask with mptr := p }) (t.setMask { t.mask with mptr := p })
  setRow : ∀ {s t} (y : Nat), R s t → R (s.setMask { s.mask with y := y }) (t.setMask { t.mask with y := y })

/-- A relation that `COMPUTE_SHR` and the stripe encoders keep. -/
structure Encoding (E : Stop → State → State → Prop) (R : State → State → Prop) : Prop extends OnStripe E R where
  shr : ∀ {s t}, R s t → t.dp.shr = s.dp.shr
  setShr : ∀ {s t} (w : ShiftWidth), R s t → R (s.setDp { s.dp with shr := w }) (t.setDp { t.dp with shr := w })
  begin : ∀ {s t} (st : Nat) (f : Family) (tr : Bool), R s t → R (s.beginning f tr st) (t.beginning f tr st)
  store : ∀ {s t} (e : Enc), e.bp.ok → R s t →
    R ((s.setBp e.bp).setDp { s.dp with color := e.color, inc := e.inc, k := e.k })
      ((t.setBp e.bp).setDp { t.dp with color := e.color, inc := e.inc, k := e.k })

namespace Reaching

variable (hR : Reaching E R) {s t : State} (h : R s t)
include hR h

theorem pixBase : t.regs.pixBase = s.regs.pixBase := (congrArg Regs.pixBase (hR.regs h) :)
theorem stride : t.regs.stride = s.regs.stride := (congrArg Regs.stride (hR.regs h) :)
theorem width : t.regs.width = s.regs.width := (congrArg Regs.width (hR.regs h) :)
theorem height : t.regs.height = s.regs.height := (congrArg Regs.height (hR.regs h) :)
theorem transpColor : t.regs.transpColor = s.regs.transpColor := (congrArg Regs.transpColor (hR.regs h) :)
theorem palmod : t.regs.palmod = s.regs.palmod := (congrArg Regs.palmod (hR.regs h) :)
theorem blobBase : t.regs.blobBase = s.regs.blobBase := (congrArg Regs.blobBase (hR.regs h) :)
theorem blobSize : t.regs.blobSize = s.regs.blobSize := (congrArg Regs.blobSize (hR.regs h) :)
theorem modeOr : t.regs.modeOr = s.regs.modeOr := (congrArg Regs.modeOr (hR.regs h) :)
theorem transpEn : t.regs.transpEn = s.regs.transpEn := (congrArg Regs.transpEn (hR.regs h) :)
theorem busy : t.regs.status.busy = s.regs.status.busy := (congrArg (fun r => r.status.busy) (hR.regs h) :)

theorem npix : t.npix = s.npix := by rw [State.npix, State.npix, hR.height h]
theorem stripes : t.stripes = s.stripes := by rw [State.stripes, State.stripes, hR.width h]
theorem blobEnd : t.blobEnd = s.blobEnd := by rw [State.blobEnd, State.blobEnd, hR.blobBase h, hR.blobSize h]

theorem reaches (a : Nat) : t.reaches a = s.reaches a := by rw [State.reaches, State.reaches, hR.busy h]
theorem unreached : t.unreached = s.unreached := by rw [State.unreached, State.unreached, hR.busy h]

end Reaching

namespace OnStripe

variable (hR : OnStripe E R) {s t : State} (h : R s t)
include hR h

theorem pixelAddr (f : Family) (k : Nat) : t.pixelAddr f k = s.pixelAddr f k := by
  rw [State.pixelAddr, State.pixelAddr, State.stripeAddr, State.stripeAddr, hR.pixBase h, hR.stride h, hR.stripe h,
    hR.height h]

theorem columnAddr (y : Nat) : t.columnAddr y = s.columnAddr y := by
  rw [State.columnAddr, State.columnAddr, hR.pixBase h, hR.stride h, hR.stripe h]

end OnStripe

/-! ### Memory -/

theorem Reaching.throw {α : Type} (hR : Reaching E R) {e : Stop} (he : e.namesStripe = false) :
    Sim E R Q (MonadExcept.throw e : Act α) :=
  Sim.throw fun _ _ => hR.quiet e he

theorem OnStripe.throw {α : Type} (hR : OnStripe E R) (e : Stop) : Sim E R Q (MonadExcept.throw e : Act α) :=
  Sim.throw fun _ _ => hR.stop e

theorem State.unreached_namesStripe (s : State) : s.unreached.namesStripe = false := by
  rw [State.unreached]
  split <;> rfl

theorem Reaching.readByte (hR : Reaching E R) (a : Nat) : Sim E R R (readByte a) := by
  intro s t h
  rw [readByte_run, readByte_run, hR.reaches h, hR.unreached h, hR.mem h]
  split
  · exact ⟨rfl, h⟩
  · exact ⟨rfl, hR.quiet _ s.unreached_namesStripe h⟩

theorem Reaching.writeByte (hR : Reaching E R) (a : Nat) (v : Byte) : Sim E R R (writeByte a v) := by
  intro s t h
  rw [writeByte_run, writeByte_run, hR.reaches h, hR.unreached h]
  split
  · next ha => exact ⟨rfl, hR.write a v ((State.reaches_iff s a).mp ha).2 h⟩
  · exact ⟨rfl, hR.quiet _ s.unreached_namesStripe h⟩

theorem Reaching.readLE (hR : Reaching E R) (n a : Nat) : Sim E R R (readLE n a) := by
  induction n generalizing a with
  | zero => exact Sim.pure 0
  | succ n ih => exact (hR.readByte a).bind fun b => (ih (a + 1)).bind fun rest => Sim.pure _

theorem Reaching.writeBytes (hR : Reaching E R) (a : Nat) (bs : List Byte) : Sim E R R (writeBytes a bs) := by
  induction bs generalizing a with
  | nil => exact Sim.pure ()
  | cons b bs ih => exact (hR.writeByte a b).bind fun _ => ih (a + 1)

theorem OnStripe.readPixels (hR : OnStripe E R) (f : Family) (n k : Nat) : Sim E R R (readPixels f n k) := by
  induction n generalizing k with
  | zero => exact Sim.pure []
  | succ n ih =>
    refine Sim.get_bind (fun s t h => by simp only [hR.pixelAddr h]) fun s => ?_
    exact (hR.readByte _).bind fun v => (ih (k + 1)).bind fun vs => Sim.pure _

theorem OnStripe.readColumn (hR : OnStripe E R) (n y : Nat) : Sim E R R (readColumn n y) := by
  induction n generalizing y with
  | zero => exact Sim.pure []
  | succ n ih =>
    refine Sim.get_bind (fun s t h => by simp only [hR.columnAddr h]) fun s => ?_
    exact (hR.readByte _).bind fun v => (ih (y + 1)).bind fun vs => Sim.pure _

theorem Reaching.checkLaunch (hR : Reaching E R) (n : Nat) : Sim E R R (checkLaunch n) := by
  have hfit {s t} (h : R s t) : t.addressesFit n = s.addressesFit n ∧ t.regionsDisjoint n = s.regionsDisjoint n := by
    simp only [State.addressesFit, State.regionsDisjoint, State.regionEnd, hR.pixBase h, hR.stride h, hR.height h,
      hR.blobBase h, hR.blobSize h]
    exact ⟨rfl, rfl⟩
  refine Sim.get_bind (fun s t h => by simp only [hfit h]) fun s => ?_
  exact Sim.ite (fun _ => Sim.ite (fun _ => Sim.pure ()) fun _ => hR.throw rfl) fun _ => hR.throw rfl

theorem Reaching.checkPrecond (hR : Reaching E R) : Sim E R R checkPrecond := by
  refine Sim.get_bind (fun s t h => by simp only [hR.width h, hR.height h]) fun s => ?_
  exact Sim.ite (fun _ => hR.throw rfl) fun _ => Sim.pure ()

/-! ### Stripe decoders -/

theorem Decoding.update (hR : Decoding E R) {f : Datapath → Datapath} (hf : ∀ d, d.run ≤ 255 → (f d).run ≤ 255) :
    Sim E R R (Machine.setDp f) :=
  Sim.update fun _ _ h => hR.setDp f hf h

theorem Unpacking.rcnt (hR : Unpacking E R) {s t : State} (h : R s t) : t.bu.rcnt = s.bu.rcnt :=
  (congrArg Unpacker.rcnt (hR.bu h) :)

theorem Unpacking.unpackerFill (hR : Unpacking E R) : Sim E R R unpackerFill := by
  intro s t h
  have hptr : t.bu.rptr = s.bu.rptr := (congrArg Unpacker.rptr (hR.bu h) :)
  have hend : t.bu.rend = s.bu.rend := (congrArg Unpacker.rend (hR.bu h) :)
  rw [unpackerFill_run, unpackerFill_run, hR.rcnt h, hptr, hend, hR.reaches h, hR.unreached h, hR.mem h]
  split
  · next hp =>
    split
    · exact ⟨rfl, hR.pull _ hp.1 hp.2 h⟩
    · exact ⟨rfl, hR.stop _ h⟩
  · exact ⟨rfl, h⟩

theorem Unpacking.readNbits (hR : Unpacking E R) (n : Nat) : Sim E R R (readNbits n) := by
  refine Sim.ite (fun _ => hR.unpackerFill.bind fun _ => ?_) fun _ => hR.throw _
  intro s t h
  have hbu := hR.bu h
  have hres : (t.bu.take n).result = (s.bu.take n).result := (congrArg (fun u => (Unpacker.take u n).result) hbu :)
  by_cases hn : s.bu.rcnt < n
  · have hn' : t.bu.rcnt < n := by rw [hR.rcnt h]; exact hn
    simp only [EStateM.run_bind, EStateM.run_get, hn, hn', if_true]
    exact ⟨rfl, hR.stop _ h⟩
  · have hn' : ¬ t.bu.rcnt < n := by rw [hR.rcnt h]; exact hn
    simp only [EStateM.run_bind, EStateM.run_get, hn, hn', if_false]
    exact ⟨hres.symm, hR.take n (by omega) h⟩

theorem Decoding.needPixel (hR : Decoding E R) : Sim E R R needPixel := by
  refine Sim.get_bind (fun s t h => by simp only [hR.dp h, hR.npix h]) fun s => ?_
  exact Sim.ite (fun _ => Sim.pure ()) fun _ => hR.throw _

theorem Placing.put (hR : Placing E R) (k : Nat) (c : Byte) : Sim E R R (put k c) := by
  refine Sim.get_bind (fun s t h => by simp only [hR.fam h, hR.tr h, hR.transpColor h, hR.palmod h, hR.pixelAddr h]) fun s => ?_
  exact Sim.ite (fun _ => Sim.pure ()) fun _ => hR.writeByte _ _

theorem Decoding.putNext (hR : Decoding E R) : Sim E R R putNext := by
  refine Sim.get_bind (fun s t h => by simp only [hR.dp h]) fun s => ?_
  exact (hR.put _ _).bind fun _ => hR.update fun _ hd => hd

/-- The three parts of every one-pixel code: the test, the new colour, the pixel. -/
theorem Decoding.onePixel (hR : Decoding E R) {f : Datapath → Datapath} (hf : ∀ d, d.run ≤ 255 → (f d).run ≤ 255) :
    Sim E R R (do Machine.needPixel; Machine.setDp f; Machine.putNext) :=
  hR.needPixel.bind fun _ => (hR.update hf).bind fun _ => hR.putNext

theorem Decoding.applyARep (hR : Decoding E R) : Sim E R R applyARep := hR.needPixel.bind fun _ => hR.putNext
theorem Decoding.applyALit (hR : Decoding E R) (v : Byte) : Sim E R R (applyALit v) := hR.onePixel fun _ hd => hd
theorem Decoding.applyADelta (hR : Decoding E R) (d : Int) : Sim E R R (applyADelta d) := hR.onePixel fun _ hd => hd
theorem Decoding.applyBRep (hR : Decoding E R) : Sim E R R applyBRep := hR.needPixel.bind fun _ => hR.putNext
theorem Decoding.applyBLit (hR : Decoding E R) (v : Byte) : Sim E R R (applyBLit v) := hR.onePixel fun _ hd => hd
theorem Decoding.applyBStep (hR : Decoding E R) : Sim E R R applyBStep := hR.onePixel fun _ hd => hd
theorem Decoding.applyBRev (hR : Decoding E R) : Sim E R R applyBRev := hR.onePixel fun _ hd => hd

theorem Decoding.runPixels (hR : Decoding E R) {n : Nat} (hn : n ≤ 256) : Sim E R R (runPixels n) := by
  induction n with
  | zero => exact Sim.pure ()
  | succ n ih => exact hR.putNext.bind fun _ => (hR.update fun _ _ => by show n ≤ 255; omega).bind fun _ => ih (by omega)

theorem Decoding.applyARun (hR : Decoding E R) (n : Byte) : Sim E R R (applyARun n) := by
  have hn := n.isLt
  refine Sim.ite (fun _ => hR.throw _) fun _ => ?_
  refine Sim.get_bind (fun s t h => by simp only [hR.dp h, hR.npix h]) fun s => ?_
  have hrun : min n.toNat (s.npix - s.dp.k) ≤ 255 := by omega
  exact (hR.update fun _ _ => hrun).bind fun _ => hR.runPixels (by omega)

theorem Decoding.decodeACode (hR : Decoding E R) : Sim E R R decodeACode :=
  Sim.get_bind (fun s t h => by simp only [hR.dp h]) fun s =>
    Sim.walk_familyA _ hR.readNbits hR.applyARep hR.applyALit hR.applyADelta hR.applyARun

theorem Decoding.decodeBCode (hR : Decoding E R) : Sim E R R decodeBCode :=
  Sim.get_bind (fun s t h => by simp only [hR.dp h]) fun s =>
    Sim.walk_familyB _ hR.readNbits hR.applyBRep hR.applyBLit hR.applyBStep hR.applyBRev

theorem Decoding.fetchACode (hR : Decoding E R) : Sim E R R fetchACode :=
  Sim.get_bind (fun s t h => by simp only [hR.dp h]) fun s =>
    Sim.walk_familyA _ hR.readNbits (Sim.pure _) (fun _ => Sim.pure _) (fun _ => Sim.pure _) fun _ => Sim.pure _

theorem Decoding.fetchBCode (hR : Decoding E R) : Sim E R R fetchBCode :=
  Sim.get_bind (fun s t h => by simp only [hR.dp h]) fun s =>
    Sim.walk_familyB _ hR.readNbits (Sim.pure _) (fun _ => Sim.pure _) (Sim.pure _) (Sim.pure _)

theorem Decoding.pixelsLeft (hR : Decoding E R) {s t : State} (h : R s t) : t.pixelsLeft = s.pixelsLeft := by
  rw [State.pixelsLeft, State.pixelsLeft, hR.dp h, hR.npix h]

/-- The loop of every stripe decoder: codes until no pixel is left. -/
theorem Decoding.codeLoop (hR : Decoding E R) {code : Act Unit} (hc : Sim E R R code) :
    Sim E R R (do whileUpTo State.pixelsLeft code (← get).npix) :=
  Sim.get_bind (fun s t h => by simp only [hR.npix h]) fun s => Sim.loop (fun _ _ h => hR.pixelsLeft h) hc _

/-! ### Mask runs -/

theorem OnStripe.writeRow (hR : OnStripe E R) (y : Nat) (v : Byte) : Sim E R R (writeRow y v) := by
  refine Sim.get_bind (fun s t h => by simp only [hR.modeOr h, hR.columnAddr h]) fun s => ?_
  exact Sim.ite (fun _ => (hR.readByte _).bind fun old => hR.writeByte _ _) fun _ => hR.writeByte _ _

theorem OnStripe.repeatRows (hR : OnStripe E R) (v : Byte) (n y : Nat) : Sim E R R (repeatRows v n y) := by
  induction n generalizing y with
  | zero => exact Sim.pure ()
  | succ n ih => exact (hR.writeRow y v).bind fun _ => ih (y + 1)

theorem Unmasking.nextByte (hR : Unmasking E R) : Sim E R R nextByte := by
  intro s t h
  rw [nextByte_run, nextByte_run, hR.blobEnd h, hR.mptr h, hR.reaches h, hR.unreached h, hR.mem h]
  split
  · exact ⟨rfl, hR.stop _ h⟩
  split
  · exact ⟨rfl, hR.setMptr _ h⟩
  · exact ⟨rfl, hR.stop _ h⟩

theorem Unmasking.literalRows (hR : Unmasking E R) (n y : Nat) : Sim E R R (literalRows n y) := by
  induction n generalizing y with
  | zero => exact Sim.pure ()
  | succ n ih => exact hR.nextByte.bind fun v => (hR.writeRow y v).bind fun _ => ih (y + 1)

theorem Unmasking.clippedRows (hR : Unmasking E R) {s t : State} (h : R s t) (n : BitVec 7) :
    t.clippedRows n = s.clippedRows n := by
  rw [State.clippedRows, State.clippedRows, hR.height h, hR.row h]

/-- Rows filled by a run: `Y` moves on by as many. -/
theorem Unmasking.advance (hR : Unmasking E R) (n : Nat) :
    Sim E R R (Machine.setMask fun m => { m with y := m.y + n }) :=
  Sim.update fun s t h => by
    show R (s.setMask { s.mask with y := s.mask.y + n }) (t.setMask { t.mask with y := t.mask.y + n })
    rw [hR.row h]
    exact hR.setRow _ h

theorem Unmasking.applyMRep (hR : Unmasking E R) (n : BitVec 7) (v : Byte) : Sim E R R (applyMRep n v) := by
  refine Sim.ite (fun _ => hR.throw _) fun _ => ?_
  refine Sim.get_bind (fun s t h => by simp only [hR.clippedRows h, hR.row h]) fun s => ?_
  exact (hR.repeatRows _ _ _).bind fun _ => hR.advance _

theorem Unmasking.applyMLit (hR : Unmasking E R) (n : BitVec 7) : Sim E R R (applyMLit n) := by
  refine Sim.ite (fun _ => hR.throw _) fun _ => ?_
  refine Sim.get_bind (fun s t h => by simp only [hR.clippedRows h, hR.row h]) fun s => ?_
  exact (hR.literalRows _ _).bind fun _ => hR.advance _

theorem Unmasking.decodeMaskRun (hR : Unmasking E R) : Sim E R R decodeMaskRun :=
  Sim.walk_maskRun hR.nextByte hR.applyMRep hR.applyMLit (hR.throw _) (hR.throw _)

theorem Unmasking.fetchMaskRun (hR : Unmasking E R) : Sim E R R fetchMaskRun :=
  Sim.walk_maskRun hR.nextByte (fun _ _ => Sim.pure _) (fun _ => Sim.pure _) (Sim.pure _) (Sim.pure _)

/-- The loop of `DEC_MASK_COL`: runs until no row is left. -/
theorem Unmasking.runLoop (hR : Unmasking E R) (n : Nat) : Sim E R R (whileUpTo State.rowsLeft Machine.decodeMaskRun n) :=
  Sim.loop (fun s t h => by simp only [State.rowsLeft, hR.row h, hR.height h]) hR.decodeMaskRun n

/-! ### Encoders -/

theorem Encoding.scanWidth (hR : Encoding E R) (n k : Nat) : Sim E R R (scanWidth n k) := by
  induction n generalizing k with
  | zero => exact Sim.pure ()
  | succ n ih =>
    refine Sim.get_bind (fun s t h => by simp only [hR.pixelAddr h]) fun s => (hR.readByte _).bind fun v => ?_
    have hgrow : Sim E R R (Machine.setDp fun d => { d with shr := growWidth 4 d.shr v }) :=
      Sim.update fun s t h => by
        show R (s.setDp { s.dp with shr := growWidth 4 s.dp.shr v }) (t.setDp { t.dp with shr := growWidth 4 t.dp.shr v })
        rw [hR.shr h]
        exact hR.setShr _ h
    refine hgrow.bind fun _ => Sim.get_bind (fun s t h => by simp only [hR.shr h]) fun s => ?_
    exact Sim.ite (fun _ => Sim.pure ()) fun _ => ih (k + 1)

/-- A stripe encoder leaves the same stream in both packers. -/
theorem Encoding.encodeStripe (hR : Encoding E R) (st : Nat) (f : Family) {enc : ShiftWidth → Byte → List Byte → Enc}
    (henc : ∀ w p0 ps, (enc w p0 ps).bp.ok) :
    Sim E R (fun s t => R s t ∧ t.bp = s.bp) (encodeStripe st f enc) := by
  have hbegin : Sim E R R (beginStripe st f false) := Sim.update fun s t h => hR.begin st f false h
  refine hbegin.bind fun _ => Sim.get_bind (fun s t h => by simp only [hR.pixelAddr h]) fun s => ?_
  refine (hR.readByte _).bind fun p0 => Sim.get_bind (fun s t h => by simp only [hR.npix h]) fun s => ?_
  refine (hR.readPixels _ _ _).bind fun ps => Sim.get_bind (fun s t h => by simp only [hR.shr h]) fun s => ?_
  exact Sim.update fun s t h => ⟨hR.store _ (henc _ _ _) h, rfl⟩

end Sys2Proof.Machine

namespace Sys2Proof.Machine

/-! ## The walk over the whole machine

`X` is what one analysis carries along; `view` is what two runs have in common of the working registers at a place in the
pseudocode, from nothing at the start of a command to what the loops there read. -/

/-- Two states that agree on the registers read, the running `HAS_TRANSP`, memory and a view of the working registers, and
that are related by `X`. -/
structure Rel {β : Type} (X : State → State → Prop) (view : State → β) (s t : State) : Prop where
  seen : t.regs.seen = s.regs.seen
  transp : t.sel.hasTransp = s.sel.hasTransp
  mem : t.mem = s.mem
  view : view t = view s
  rest : X s t

/-- No working register is in view. -/
abbrev noView (_ : State) : Unit := ()

/-- What two runs that stop alike have in common: what the entry of an error reads (R212). -/
def Stopped (X : State → State → Prop) (e : Stop) (s t : State) : Prop :=
  Rel X noView s t ∧ (e.namesStripe = true → t.sel.stripe = s.sel.stripe)

/-- A relation that every update of the pseudocode keeps when both runs make it. -/
structure Carried (X : State → State → Prop) : Prop where
  setMem : ∀ {s t} (a : Nat) (v : Byte), a < Config.addrSpace → X s t →
    X (s.setMem (s.mem.write a v)) (t.setMem (t.mem.write a v))
  warn : ∀ {s t}, X s t → X (warn s) (warn t)
  setDp : ∀ {s t} (f : Datapath → Datapath), (∀ d, d.run ≤ 255 → (f d).run ≤ 255) → X s t →
    X (s.setDp (f s.dp)) (t.setDp (f t.dp))
  setBp : ∀ {s t} (f : Packer → Packer), (s.bp.ok → (f s.bp).ok) → X s t → X (s.setBp (f s.bp)) (t.setBp (f t.bp))
  setBu : ∀ {s t} (f : Unpacker → Unpacker), (s.bu.ok → (f s.bu).ok) → X s t → X (s.setBu (f s.bu)) (t.setBu (f t.bu))
  setSel : ∀ {s t} (f : Selector → Selector), X s t → X (s.setSel (f s.sel)) (t.setSel (f t.sel))
  setMask : ∀ {s t} (f : MaskRegs → MaskRegs), (∀ m, m.litcnt ≤ 127 → (f m).litcnt ≤ 127) → X s t →
    X (s.setMask (f s.mask)) (t.setMask (f t.mask))

section
variable {β γ : Type} {X : State → State → Prop} {view : State → β} {view' : State → γ}

theorem Rel.weaken {s t : State} (h : Rel X view s t) (hv : view' t = view' s) : Rel X view' s t :=
  ⟨h.seen, h.transp, h.mem, hv, h.rest⟩

/-- An update of working registers, which leaves the registers, the running `HAS_TRANSP` and memory alone. -/
theorem Rel.update {f g : State → State} {s t : State} (h : Rel X view s t) (hregs : (f s).regs = s.regs)
    (hregs' : (g t).regs = t.regs) (hmem : (f s).mem = s.mem) (hmem' : (g t).mem = t.mem)
    (htr : (f s).sel.hasTransp = s.sel.hasTransp) (htr' : (g t).sel.hasTransp = t.sel.hasTransp)
    (hv : view' (g t) = view' (f s)) (hX : X (f s) (g t)) : Rel X view' (f s) (g t) := by
  refine ⟨?_, ?_, ?_, hv, hX⟩
  · rw [hregs, hregs']; exact h.seen
  · rw [htr, htr']; exact h.transp
  · rw [hmem, hmem']; exact h.mem

theorem Rel.reaching (hX : Carried X) (hm : ∀ s m, view (s.setMem m) = view s) :
    Reaching (Stopped X) (Rel X view) where
  quiet _ he h := ⟨h.weaken rfl, fun h' => by rw [he] at h'; cases h'⟩
  regs h := h.seen
  mem h := h.mem
  write a v ha h := by
    refine ⟨h.seen, h.transp, ?_, ?_, hX.setMem a v ha h.rest⟩
    · simp only [State.setMem_mem, h.mem]
    · rw [hm, hm, h.view]

theorem Rel.onStripe (hX : Carried X) (hm : ∀ s m, view (s.setMem m) = view s)
    (hs : ∀ s t, view t = view s → t.sel.stripe = s.sel.stripe) : OnStripe (Stopped X) (Rel X view) where
  toReaching := Rel.reaching hX hm
  stop _ h := ⟨h.weaken rfl, fun _ => hs _ _ h.view⟩
  stripe h := hs _ _ h.view

/-! ### Views while a stripe is decoded -/

/-- The stripe only. -/
abbrev stripeView (s : State) : Nat := s.sel.stripe

/-- The stripe and its offset entry (R170). -/
abbrev entryView (s : State) : Nat × Nat := (s.sel.stripe, s.sel.ofs)

/-- The stripe, the source of the Bit Unpacker, and a part of the datapath. -/
abbrev sourceView (part : Datapath → β) (s : State) : Nat × Unpacker × β := (s.sel.stripe, s.bu.source, part s.dp)

/-- No part of the datapath. -/
abbrev noPart (_ : Datapath) : Unit := ()

/-- The datapath before the first pixel: no colour, no count. -/
abbrev Datapath.uncoloured (d : Datapath) : Datapath := { d with color := 0, k := 0 }

/-- The datapath while the first pixel is placed: no count. -/
abbrev Datapath.uncounted (d : Datapath) : Datapath := { d with k := 0 }

theorem Rel.stripeOnly (hX : Carried X) : OnStripe (Stopped X) (Rel X stripeView) :=
  Rel.onStripe hX (fun _ _ => rfl) fun _ _ h => h

theorem Rel.entryOnly (hX : Carried X) : OnStripe (Stopped X) (Rel X entryView) :=
  Rel.onStripe hX (fun _ _ => rfl) fun _ _ h => congrArg Prod.fst h

theorem Rel.source_eq {part : Datapath → β} {s t : State} (h : Rel X (sourceView part) s t) :
    t.sel.stripe = s.sel.stripe ∧ t.bu.source = s.bu.source ∧ part t.dp = part s.dp := by
  have hv := h.view
  simp only [Prod.mk.injEq] at hv
  exact hv

theorem Rel.unpacking (hX : Carried X) (part : Datapath → β) : Unpacking (Stopped X) (Rel X (sourceView part)) where
  toOnStripe := Rel.onStripe hX (fun _ _ => rfl) fun _ _ h => congrArg Prod.fst h
  bu h := h.source_eq.2.1
  pull {s t} b hcnt hptr h := by
    obtain ⟨hst, hsrc, hdp⟩ := h.source_eq
    have hpull : (t.bu.pull b).source = (s.bu.pull b).source := (congrArg (fun u => (Unpacker.pull u b).source) hsrc :)
    refine ⟨h.seen, h.transp, h.mem, ?_, hX.setBu (fun u => u.pull b) (fun hu => Unpacker.pull_ok hu hcnt hptr b) h.rest⟩
    simp only [sourceView, State.setBu_sel, State.setBu_bu, State.setBu_dp, hst, hpull, hdp]
  take {s t} n hn h := by
    obtain ⟨hst, hsrc, hdp⟩ := h.source_eq
    have htake : (t.bu.take n).source = (s.bu.take n).source := (congrArg (fun u => (Unpacker.take u n).source) hsrc :)
    refine ⟨h.seen, h.transp, h.mem, ?_, hX.setBu (fun u => u.take n) (fun hu => Unpacker.take_ok hu hn) h.rest⟩
    simp only [sourceView, State.setBu_sel, State.setBu_bu, State.setBu_dp, hst, htake, hdp]

theorem Rel.placing (hX : Carried X) {part : Datapath → Datapath} (hf : ∀ d, (part d).fam = d.fam)
    (htr : ∀ d, (part d).tr = d.tr) : Placing (Stopped X) (Rel X (sourceView part)) where
  toUnpacking := Rel.unpacking hX part
  fam h := by rw [← hf, h.source_eq.2.2, hf]
  tr h := by rw [← htr, h.source_eq.2.2, htr]

/-- A datapath update that two runs make alike brings more of the datapath into view. -/
theorem Rel.setDp (hX : Carried X) {part : Datapath → β} {part' : Datapath → γ} {f : Datapath → Datapath}
    (hrun : ∀ d, d.run ≤ 255 → (f d).run ≤ 255) (hf : ∀ d d', part d = part d' → part' (f d) = part' (f d'))
    {s t : State} (h : Rel X (sourceView part) s t) :
    Rel X (sourceView part') (s.setDp (f s.dp)) (t.setDp (f t.dp)) := by
  obtain ⟨hst, hsrc, hdp⟩ := h.source_eq
  refine ⟨h.seen, h.transp, h.mem, ?_, hX.setDp f hrun h.rest⟩
  simp only [sourceView, State.setDp_sel, State.setDp_bu, State.setDp_dp, hst, hsrc, hf _ _ hdp]

theorem Rel.decoding (hX : Carried X) : Decoding (Stopped X) (Rel X (sourceView id)) where
  toPlacing := Rel.placing hX (fun _ => rfl) fun _ => rfl
  dp h := h.source_eq.2.2
  setDp f hf h := Rel.setDp hX (part := id) (part' := id) hf (fun _ _ hd => congrArg f hd) h

/-! ### Stripe decoders -/

/-- The start of a stripe operation brings the selects, `INC` and `RUN` into view. -/
theorem Rel.beginDecoder (hX : Carried X) (st : Nat) (f : Family) (tr : Bool) :
    Sim (Stopped X) (Rel X (sourceView Datapath.shr)) (Rel X (sourceView Datapath.uncoloured)) (beginStripe st f tr) :=
  Sim.update fun s t h => by
    obtain ⟨hst, hsrc, hshr⟩ := h.source_eq
    refine ⟨h.seen, h.transp, h.mem, ?_, ?_⟩
    · show (st, t.bu.source, Datapath.mk 0 .down t.dp.shr 0 0 f tr) = (st, s.bu.source, Datapath.mk 0 .down s.dp.shr 0 0 f tr)
      rw [hsrc, hshr]
    · exact hX.setDp (fun d => { d with fam := f, tr := tr, inc := .down, run := 0 }) (fun _ _ => Nat.zero_le _)
        (hX.setSel (fun x => { x with stripe := st }) h.rest)

/-- The first pixel brings the colour and the count into view. -/
theorem Rel.decodeFirst (hX : Carried X) :
    Sim (Stopped X) (Rel X (sourceView Datapath.uncoloured)) (Rel X (sourceView id)) decodeFirst := by
  have hplace := Rel.placing hX (part := Datapath.uncounted) (fun _ => rfl) fun _ => rfl
  refine ((Rel.unpacking hX _).readNbits 8).bind fun c => ?_
  have hcolor : Sim (Stopped X) (Rel X (sourceView Datapath.uncoloured)) (Rel X (sourceView Datapath.uncounted))
      (Machine.setDp fun d => { d with color := c }) :=
    Sim.update fun s t h => h.setDp hX (f := fun d => { d with color := c }) (fun _ hd => hd) fun d d' hd =>
      (congrArg (fun d : Datapath => { d with color := c }) hd :)
  have hcount : Sim (Stopped X) (Rel X (sourceView Datapath.uncounted)) (Rel X (sourceView id))
      (Machine.setDp fun d => { d with k := 1 }) :=
    Sim.update fun s t h => h.setDp hX (f := fun d => { d with k := 1 }) (fun _ hd => hd) fun d d' hd =>
      (congrArg (fun d : Datapath => { d with k := 1 }) hd :)
  exact hcolor.bind fun _ => (hplace.put 0 c).bind fun _ => hcount

theorem Rel.decodeA (hX : Carried X) (st : Nat) (f : Family) (tr : Bool) :
    Sim (Stopped X) (Rel X (sourceView Datapath.shr)) (Rel X (sourceView id)) (decodeA st f tr) :=
  (Rel.beginDecoder hX st f tr).bind fun _ => (Rel.decodeFirst hX).bind fun _ =>
    (Rel.decoding hX).codeLoop (Rel.decoding hX).decodeACode

theorem Rel.decodeB (hX : Carried X) (st : Nat) (f : Family) (tr : Bool) :
    Sim (Stopped X) (Rel X (sourceView Datapath.shr)) (Rel X (sourceView id)) (decodeB st f tr) :=
  (Rel.beginDecoder hX st f tr).bind fun _ => (Rel.decodeFirst hX).bind fun _ =>
    (Rel.decoding hX).codeLoop (Rel.decoding hX).decodeBCode

theorem Rel.decodeFamily (hX : Carried X) (f : Family) (tr : Bool) :
    Sim (Stopped X) (Rel X (sourceView Datapath.shr)) (Rel X (sourceView id)) (decodeFamily f tr) := by
  refine Sim.get_bind (fun s t h => by simp only [h.source_eq.1]) fun s => ?_
  cases f
  · exact Rel.decodeA hX _ _ _
  · exact Rel.decodeA hX _ _ _
  · exact Rel.decodeB hX _ _ _
  · exact Rel.decodeB hX _ _ _

/-! ### The image decoder -/

/-- An update of the selector that keeps the running `HAS_TRANSP`. -/
theorem Rel.setSel (hX : Carried X) {f : Selector → Selector} (hf : ∀ x, (f x).hasTransp = x.hasTransp) {s t : State}
    (h : Rel X view s t) (hv : view' (t.setSel (f t.sel)) = view' (s.setSel (f s.sel))) :
    Rel X view' (s.setSel (f s.sel)) (t.setSel (f t.sel)) :=
  ⟨h.seen, by simp only [State.setSel_sel, hf, h.transp], h.mem, hv, hX.setSel f h.rest⟩

theorem Rel.setStripe (hX : Carried X) (st : Nat) (hv : ∀ s t, view t = view s → view' (t.onStripe st) = view' (s.onStripe st)) :
    Sim (Stopped X) (Rel X view) (Rel X view') (modify fun s => s.setSel { s.sel with stripe := st }) :=
  Sim.update fun _ _ h => h.setSel hX (f := fun x => { x with stripe := st }) (fun _ => rfl) (hv _ _ h.view)

theorem Rel.entry_eq {s t : State} (h : Rel X entryView s t) : t.sel.stripe = s.sel.stripe ∧ t.sel.ofs = s.sel.ofs := by
  have hv := h.view
  simp only [Prod.mk.injEq] at hv
  exact hv

theorem Rel.fetchType (hX : Carried X) : Sim (Stopped X) (Rel X stripeView) (Rel X entryView) fetchType := by
  have hR := Rel.stripeOnly hX
  have hR' := Rel.entryOnly hX
  refine Sim.get_bind (fun s t h => by simp only [hR.blobSize h, hR.blobBase h, hR.stripe h]) fun s => ?_
  refine Sim.ite (fun _ => hR.throw _) fun _ => (hR.readLE 4 _).bind fun entry => ?_
  have hofs : Sim (Stopped X) (Rel X stripeView) (Rel X entryView)
      (modify fun s => s.setSel { s.sel with ofs := entry - Config.smapOfsBias }) :=
    Sim.update fun s t h => h.setSel hX (f := fun x => { x with ofs := entry - Config.smapOfsBias }) (fun _ => rfl)
      (congrArg (fun st => (st, entry - Config.smapOfsBias)) h.view :)
  refine hofs.bind fun _ => ?_
  refine Sim.get_bind (fun s t h => by simp only [hR'.blobSize h, hR'.blobBase h, h.entry_eq.2]) fun s => ?_
  exact Sim.ite (fun _ => hR'.throw _) fun _ => hR'.readByte _

theorem Rel.dispatchType (hX : Carried X) (f : Family) (tcap : Bool) (shr : ShiftWidth) :
    Sim (Stopped X) (Rel X entryView) (Rel X (sourceView id)) (dispatchType f tcap shr) := by
  have hR := Rel.entryOnly hX
  have htransp : Sim (Stopped X) (Rel X entryView) (Rel X entryView)
      (modify fun s => s.setSel { s.sel with hasTransp := s.sel.hasTransp || tcap }) :=
    Sim.update fun _ _ h => ⟨h.seen, (congrArg (· || tcap) h.transp :), h.mem, h.view,
      hX.setSel (fun x => { x with hasTransp := x.hasTransp || tcap }) h.rest⟩
  refine htransp.bind fun _ => Sim.get_bind (fun s t h => by
    simp only [hR.blobBase h, h.entry_eq.2, hR.blobEnd h, hR.transpEn h]) fun s => ?_
  have hinit (start stop : Nat) : Sim (Stopped X) (Rel X entryView) (Rel X (sourceView noPart)) (unpackerInit start stop) :=
    Sim.update fun s t h => ⟨h.seen, h.transp, h.mem, by
      show (t.sel.stripe, Unpacker.mk 0 0 start stop start 0, ()) = (s.sel.stripe, Unpacker.mk 0 0 start stop start 0, ())
      rw [h.entry_eq.1],
      hX.setBu (fun u => { u with racc := 0, rcnt := 0, rptr := start, rend := stop, start := start })
        (fun _ => Unpacker.init_ok _ _ _) h.rest⟩
  have hshr : Sim (Stopped X) (Rel X (sourceView noPart)) (Rel X (sourceView Datapath.shr))
      (Machine.setDp fun d => { d with shr := shr }) :=
    Sim.update fun s t h => h.setDp hX (f := fun d => { d with shr := shr }) (fun _ hd => hd) fun _ _ _ => rfl
  exact (hinit _ _).bind fun _ => hshr.bind fun _ => Rel.decodeFamily hX _ _

theorem Rel.warn (hX : Carried X) : Sim (Stopped X) (Rel X view) (Rel X noView) (modify Machine.warn) :=
  Sim.update fun _ _ h =>
    ⟨(congrArg (fun r : Regs => { r with warnCnt := r.warnCnt + 1 }) h.seen :), h.transp, h.mem, rfl, hX.warn h.rest⟩

theorem Rel.decodeRecord (hX : Carried X) (st : Nat) :
    Sim (Stopped X) (Rel X noView) (Rel X noView) (decodeRecord st) := by
  refine (Rel.setStripe hX st (view' := stripeView) fun _ _ _ => rfl).bind fun _ => (Rel.fetchType hX).bind fun b => ?_
  rcases decodeType b with _ | ⟨f, tcap, shr⟩
  · exact Rel.warn hX
  · exact (Rel.dispatchType hX f tcap shr).weaken fun _ _ h => h.weaken rfl

theorem Rel.launching (hX : Carried X) : Reaching (Stopped X) (Rel X noView) := Rel.reaching hX fun _ _ => rfl

theorem Rel.decodeImage (hX : Carried X) : Sim (Stopped X) (Rel X noView) (Rel X noView) decodeImage := by
  have hR := Rel.launching hX
  refine hR.checkPrecond.bind fun _ => Sim.get_bind (fun s t h => by simp only [hR.width h, hR.stripes h]) fun s => ?_
  exact (hR.checkLaunch _).bind fun _ => (Sim.each (Rel.decodeRecord hX) _ _).bind fun _ => Sim.pure 0

/-! ### The mask decoder -/

/-- The stripe and the place in its record and its column (R192). -/
abbrev columnView (s : State) : Nat × Nat × Nat := (s.sel.stripe, s.mask.mptr, s.mask.y)

theorem Rel.column_eq {s t : State} (h : Rel X columnView s t) :
    t.sel.stripe = s.sel.stripe ∧ t.mask.mptr = s.mask.mptr ∧ t.mask.y = s.mask.y := by
  have hv := h.view
  simp only [Prod.mk.injEq] at hv
  exact hv

theorem Rel.unmasking (hX : Carried X) : Unmasking (Stopped X) (Rel X columnView) where
  toOnStripe := Rel.onStripe hX (fun _ _ => rfl) fun _ _ h => congrArg Prod.fst h
  mptr h := h.column_eq.2.1
  row h := h.column_eq.2.2
  setMptr p h := ⟨h.seen, h.transp, h.mem, (congrArg (fun v => (v.1, p, v.2.2)) h.view :),
    hX.setMask (fun m => { m with mptr := p }) (fun _ hm => hm) h.rest⟩
  setRow y h := ⟨h.seen, h.transp, h.mem, (congrArg (fun v => (v.1, v.2.1, y)) h.view :),
    hX.setMask (fun m => { m with y := y }) (fun _ hm => hm) h.rest⟩

theorem Rel.decodeColumn (hX : Carried X) (st ofs : Nat) :
    Sim (Stopped X) (Rel X view) (Rel X columnView) (decodeColumn st ofs) := by
  have hR := Rel.stripeOnly hX
  refine (Rel.setStripe hX st (view' := stripeView) fun _ _ _ => rfl).bind fun _ => ?_
  refine Sim.get_bind (fun s t h => by simp only [hR.blobBase h, hR.height h]) fun s => ?_
  have hplace : Sim (Stopped X) (Rel X stripeView) (Rel X columnView)
      (Machine.setMask fun m => { m with mptr := s.regs.blobBase.toNat + ofs, y := 0 }) :=
    Sim.update fun _ _ h => ⟨h.seen, h.transp, h.mem,
      (congrArg (fun st => (st, s.regs.blobBase.toNat + ofs, 0)) h.view :),
      hX.setMask (fun m => { m with mptr := s.regs.blobBase.toNat + ofs, y := 0 }) (fun _ hm => hm) h.rest⟩
  exact hplace.bind fun _ => (Rel.unmasking hX).runLoop _

theorem OnStripe.decodeAbsent {E : Stop → State → State → Prop} {R : State → State → Prop} (hR : OnStripe E R) :
    Sim E R R decodeAbsent := by
  refine Sim.get_bind (fun s t h => by simp only [hR.modeOr h, hR.height h]) fun s => ?_
  exact Sim.ite (fun _ => Sim.pure ()) fun _ => hR.repeatRows _ _ _

theorem Rel.decodeMaskStripe (hX : Carried X) (st : Nat) :
    Sim (Stopped X) (Rel X noView) (Rel X noView) (decodeMaskStripe st) := by
  have hR := Rel.stripeOnly hX
  refine (Rel.setStripe hX st (view' := stripeView) fun _ _ _ => rfl).bind fun _ => ?_
  refine Sim.get_bind (fun s t h => by simp only [hR.blobSize h, hR.blobBase h]) fun s => ?_
  refine Sim.ite (fun _ => hR.throw _) fun _ => (hR.readLE 2 _).bind fun ofs => ?_
  exact Sim.ite (fun _ => hR.decodeAbsent.weaken fun _ _ h => h.weaken rfl)
    fun _ => (Rel.decodeColumn hX st ofs).weaken fun _ _ h => h.weaken rfl

theorem Rel.decodeMask (hX : Carried X) : Sim (Stopped X) (Rel X noView) (Rel X noView) decodeMask := by
  have hR := Rel.launching hX
  refine hR.checkPrecond.bind fun _ => Sim.get_bind (fun s t h => by simp only [hR.stripes h]) fun s => ?_
  exact (hR.checkLaunch _).bind fun _ => (Sim.each (Rel.decodeMaskStripe hX) _ _).bind fun _ => Sim.pure 0

/-! ### The mask encoder -/

/-- The offsets and records so far (R194). -/
abbrev planeView (s : State) : Nat × List Nat × List (List Byte) := (s.sel.total, s.mask.zofs, s.mask.recs)

/-- The same for a stripe, with its record. -/
abbrev recordView (s : State) : Nat × List Byte × Nat × List Nat × List (List Byte) :=
  (s.sel.stripe, s.mask.out, planeView s)

/-- The registers that the loop of R190 neither reads nor writes, taken from another state of the codec. -/
def MaskRegs.besides (m m' : MaskRegs) : MaskRegs := { m with mptr := m'.mptr, zofs := m'.zofs, recs := m'.recs }

theorem encodeColumnLoop_besides (n : Nat) (m m' : MaskRegs) (col : List Byte) :
    encodeColumnLoop n (m.besides m') col = (encodeColumnLoop n m col).besides m' := by
  induction n generalizing m col with
  | zero => rfl
  | succ n ih =>
    cases col with
    | nil => rfl
    | cons v vs =>
      have hlit : (m.besides m').litcnt = m.litcnt := rfl
      rw [encodeColumnLoop, encodeColumnLoop, hlit]
      split
      · refine Eq.trans ?_ (ih _ _)
        rfl
      · split <;> refine Eq.trans ?_ (ih _ _) <;> rfl

/-- The record of a column depends on the column alone (R190); offsets and earlier records are kept. -/
theorem MaskRegs.encodeColumn_eq (m m' : MaskRegs) (col : List Byte) :
    m.encodeColumn col = { m'.encodeColumn col with zofs := m.zofs, recs := m.recs } := by
  have h := encodeColumnLoop_besides col.length { m' with out := [], litbuf := [], y := 0 } m col
  have he : m.encodeColumn col = { ((encodeColumnLoop col.length { m' with out := [], litbuf := [], y := 0 } col).besides
      m).flushLit with mptr := (((encodeColumnLoop col.length { m' with out := [], litbuf := [], y := 0 } col).besides
      m).flushLit.out).length } := by
    rw [← h]
    rfl
  exact he

/-- Nothing is left in the literal buffer after a column (R190, R26). -/
theorem MaskRegs.encodeColumn_litcnt (m : MaskRegs) (col : List Byte) : (m.encodeColumn col).litcnt = 0 := rfl

/-- The stripe with the offsets and records so far. -/
abbrev stripePlaneView (s : State) : Nat × Nat × List Nat × List (List Byte) := (s.sel.stripe, planeView s)

theorem Rel.stripePlane (hX : Carried X) : OnStripe (Stopped X) (Rel X stripePlaneView) :=
  Rel.onStripe hX (fun _ _ => rfl) fun _ _ h => congrArg Prod.fst h

theorem Rel.encodeColumn (hX : Carried X) (st : Nat) (hv : ∀ s t, view t = view s → planeView t = planeView s)
    (hst : ∀ s st, planeView (s.onStripe st) = planeView s) :
    Sim (Stopped X) (Rel X view) (Rel X recordView) (encodeColumn st) := by
  have hR := Rel.stripePlane hX
  have hbegin := Rel.setStripe hX st (view := view) (view' := stripePlaneView) fun s t h => by
    show (st, planeView (t.onStripe st)) = (st, planeView (s.onStripe st))
    rw [hst, hst, hv s t h]
  refine hbegin.bind fun _ => Sim.get_bind (fun s t h => by simp only [hR.height h]) fun s => ?_
  refine (hR.readColumn _ _).bind fun col => Sim.update fun s t h => ⟨h.seen, h.transp, h.mem, ?_, ?_⟩
  · show (t.sel.stripe, (t.mask.encodeColumn col).out, t.sel.total, (t.mask.encodeColumn col).zofs,
        (t.mask.encodeColumn col).recs) = (s.sel.stripe, (s.mask.encodeColumn col).out, s.sel.total,
        (s.mask.encodeColumn col).zofs, (s.mask.encodeColumn col).recs)
    rw [MaskRegs.encodeColumn_eq t.mask s.mask, MaskRegs.encodeColumn_eq s.mask s.mask]
    exact (congrArg (fun v => (v.1, (s.mask.encodeColumn col).out, v.2)) h.view :)
  · exact hX.setMask (fun m => m.encodeColumn col) (fun m _ => by rw [MaskRegs.encodeColumn_litcnt]; omega) h.rest

theorem Rel.sizeColumn (hX : Carried X) (st : Nat) :
    Sim (Stopped X) (Rel X planeView) (Rel X planeView) (sizeColumn st) := by
  have hR := Rel.stripePlane hX
  have hbegin := Rel.setStripe hX st (view := planeView) (view' := stripePlaneView) fun s t h =>
    (congrArg (fun v => (st, v)) h :)
  refine hbegin.bind fun _ => Sim.get_bind (fun s t h => by simp only [hR.height h]) fun s => ?_
  refine (hR.readColumn _ _).bind fun col => Sim.ite (fun _ => Sim.update fun s t h => ?_) fun _ => ?_
  · exact ⟨h.seen, h.transp, h.mem, (congrArg (fun v => (v.2.1, v.2.2.1 ++ [0], v.2.2.2 ++ [[]])) h.view :),
      hX.setMask (fun m => { m with zofs := m.zofs ++ [0], recs := m.recs ++ [[]] }) (fun _ hm => hm) h.rest⟩
  refine Sim.get_bind (fun s t h => by
    have htotal : t.sel.total = s.sel.total := (congrArg (fun v => v.2.1) h.view :)
    simp only [htotal]) fun s => Sim.ite (fun _ => hR.throw _) fun _ => ?_
  have hrecord := Rel.encodeColumn hX st (view := stripePlaneView) (fun s t h => congrArg Prod.snd h) fun _ _ => rfl
  refine hrecord.bind fun _ => ?_
  have hentry (z : Nat) : Sim (Stopped X) (Rel X recordView) (Rel X recordView)
      (Machine.setMask fun m => { m with zofs := m.zofs ++ [z], recs := m.recs ++ [m.out] }) :=
    Sim.update fun s t h => ⟨h.seen, h.transp, h.mem,
      (congrArg (fun v => (v.1, v.2.1, v.2.2.1, v.2.2.2.1 ++ [z], v.2.2.2.2 ++ [v.2.1])) h.view :),
      hX.setMask (fun m => { m with zofs := m.zofs ++ [z], recs := m.recs ++ [m.out] }) (fun _ hm => hm) h.rest⟩
  refine (hentry _).bind fun _ => Sim.update fun s t h => ?_
  have hout : t.mask.out = s.mask.out := (congrArg (fun v => v.2.1) h.view :)
  rw [hout]
  exact h.setSel hX (f := fun x => { x with total := x.total + s.mask.out.length }) (fun _ => rfl)
    (congrArg (fun v => (v.2.2.1 + s.mask.out.length, v.2.2.2)) h.view :)

theorem Rel.encodeMask (hX : Carried X) : Sim (Stopped X) (Rel X noView) (Rel X noView) encodeMask := by
  have hR := Rel.launching hX
  have hR' : Reaching (Stopped X) (Rel X planeView) := Rel.reaching hX fun _ _ => rfl
  refine hR.checkPrecond.bind fun _ => Sim.get_bind (fun s t h => by simp only [hR.stripes h]) fun s => ?_
  refine (hR.checkLaunch _).bind fun _ => ?_
  have htotal : Sim (Stopped X) (Rel X noView) (Rel X fun s => s.sel.total)
      (modify fun s => s.setSel { s.sel with total := 2 * s.stripes }) :=
    Sim.update fun s t h => by
      rw [hR.stripes h]
      exact h.setSel hX (f := fun x => { x with total := 2 * s.stripes }) (fun _ => rfl) rfl
  have hclear : Sim (Stopped X) (Rel X fun s => s.sel.total) (Rel X planeView)
      (Machine.setMask fun m => { m with zofs := [], recs := [] }) :=
    Sim.update fun s t h => ⟨h.seen, h.transp, h.mem, (congrArg (fun n => (n, [], [])) h.view :),
      hX.setMask (fun m => { m with zofs := [], recs := [] }) (fun _ hm => hm) h.rest⟩
  refine htotal.bind fun _ => hclear.bind fun _ => (Sim.each (Rel.sizeColumn hX) _ _).bind fun _ => ?_
  refine Sim.get_bind (fun s t h => by
    have hv := h.view
    simp only [Prod.mk.injEq] at hv
    obtain ⟨htotal, hzofs, hrecs⟩ := hv
    simp only [hR'.blobSize h, hR'.blobBase h, hR'.stripes h, htotal, hzofs, hrecs]) fun s => ?_
  refine Sim.ite (fun _ => hR'.throw rfl) fun _ => (hR'.writeBytes _ _).bind fun _ => (hR'.writeBytes _ _).bind fun _ => ?_
  exact (Sim.pure _).weaken fun _ _ h => h.weaken rfl

/-! ### The image encoder -/

theorem encodeA_ok (escape : Bool) (shr : ShiftWidth) (p0 : Byte) (ps : List Byte) : (encodeA escape shr p0 ps).bp.ok :=
  Packer.flush_ok _

theorem encodeB_ok (shr : ShiftWidth) (p0 : Byte) (ps : List Byte) : (encodeB shr p0 ps).bp.ok := Packer.flush_ok _

theorem Encoding.encodeFamily {E : Stop → State → State → Prop} {R : State → State → Prop} (hR : Encoding E R) (f : Family)
    (st : Nat) : Sim E R (fun s t => R s t ∧ t.bp = s.bp) (encodeFamily f st) := by
  cases f
  · exact hR.encodeStripe st .a (encodeA_ok true)
  · exact hR.encodeStripe st .a6 (encodeA_ok false)
  · exact hR.encodeStripe st .b encodeB_ok
  · exact hR.encodeStripe st .c encodeB_ok

/-- The results so far (R156). -/
abbrev resultView (s : State) : List Best × Nat := (s.sel.best, s.sel.total)

/-- The stripe, its shift width and the candidates of some families, with the results so far (R152). -/
abbrev candView (fs : List Family) (s : State) : Nat × ShiftWidth × List (List Byte) × List Best × Nat :=
  (s.sel.stripe, s.dp.shr, fs.map s.sel.cand.get, resultView s)

theorem Rel.cand_eq {fs : List Family} {s t : State} (h : Rel X (candView fs) s t) :
    t.sel.stripe = s.sel.stripe ∧ t.dp.shr = s.dp.shr ∧ fs.map t.sel.cand.get = fs.map s.sel.cand.get ∧
      t.sel.best = s.sel.best ∧ t.sel.total = s.sel.total := by
  have hv := h.view
  simp only [Prod.mk.injEq] at hv
  exact hv

theorem Rel.encoding (hX : Carried X) (fs : List Family) : Encoding (Stopped X) (Rel X (candView fs)) where
  toOnStripe := Rel.onStripe hX (fun _ _ => rfl) fun _ _ h => congrArg Prod.fst h
  shr h := h.cand_eq.2.1
  setShr w h := ⟨h.seen, h.transp, h.mem, (congrArg (fun v => (v.1, w, v.2.2)) h.view :),
    hX.setDp (fun d => { d with shr := w }) (fun _ hd => hd) h.rest⟩
  begin st f tr h := ⟨h.seen, h.transp, h.mem, (congrArg (fun v => (st, v.2)) h.view :),
    hX.setDp (fun d => { d with fam := f, tr := tr, inc := .down, run := 0 }) (fun _ _ => Nat.zero_le _)
      (hX.setSel (fun x => { x with stripe := st }) h.rest)⟩
  store e he h := ⟨h.seen, h.transp, h.mem, h.view,
    hX.setDp (fun d => { d with color := e.color, inc := e.inc, k := e.k }) (fun _ hd => hd) (hX.setBp (fun _ => e.bp) (fun _ => he) h.rest)⟩

theorem Rel.computeShr (hX : Carried X) (st : Nat) (hv : ∀ s t, view t = view s → resultView t = resultView s)
    (hst : ∀ s st, resultView (s.onStripe st) = resultView s) :
    Sim (Stopped X) (Rel X view) (Rel X (candView [])) (computeShr st) := by
  have hR := Rel.encoding hX []
  have hbegin := Rel.setStripe hX st (view := view) (view' := fun s => (s.sel.stripe, resultView s)) fun s t h => by
    show (st, resultView (t.onStripe st)) = (st, resultView (s.onStripe st))
    rw [hst, hst, hv s t h]
  have hshr : Sim (Stopped X) (Rel X fun s => (s.sel.stripe, resultView s)) (Rel X (candView []))
      (Machine.setDp fun d => { d with shr := .w4 }) :=
    Sim.update fun s t h => ⟨h.seen, h.transp, h.mem, (congrArg (fun v => (v.1, ShiftWidth.w4, ([] : List (List Byte)), v.2))
      h.view :), hX.setDp (fun d => { d with shr := .w4 }) (fun _ hd => hd) h.rest⟩
  refine hbegin.bind fun _ => hshr.bind fun _ => Sim.get_bind (fun s t h => by simp only [hR.npix h]) fun s => ?_
  exact hR.scanWidth _ _

theorem Cands.get_set (c : Cands) (f g : Family) (w : List Byte) :
    (c.set f w).get g = if g = f then w else c.get g := by
  cases f <;> cases g <;> rfl

/-- The candidates of a family list come into view one by one (R152). -/
theorem Rel.encodeCandidates (hX : Carried X) (st : Nat) (fs done : List Family) :
    Sim (Stopped X) (Rel X (candView done)) (Rel X (candView (fs.reverse ++ done))) (encodeCandidates st fs) := by
  induction fs generalizing done with
  | nil => exact Sim.pure ()
  | cons f fs ih =>
    have hset : Sim (Stopped X) (fun s t => Rel X (candView done) s t ∧ t.bp = s.bp) (Rel X (candView (f :: done)))
        (modify fun s => s.setSel { s.sel with cand := s.sel.cand.set f s.bp.wout }) := by
      refine Sim.update fun s t ⟨h, hbp⟩ => ?_
      obtain ⟨hst, hshr, hcand, hbest, htotal⟩ := h.cand_eq
      rw [hbp]
      refine h.setSel hX (f := fun x => { x with cand := x.cand.set f s.bp.wout }) (fun _ => rfl) ?_
      have hcand' : (f :: done).map (t.sel.cand.set f s.bp.wout).get = (f :: done).map (s.sel.cand.set f s.bp.wout).get := by
        rw [List.map_inj_left] at hcand ⊢
        intro g hg
        rw [Cands.get_set, Cands.get_set]
        split
        · rfl
        · next hgf => exact hcand g ((List.mem_cons.mp hg).resolve_left hgf)
      simp only [candView, resultView, State.setSel_sel, State.setSel_dp, hst, hshr, hcand', hbest, htotal]
    rw [List.reverse_cons, List.append_assoc, List.singleton_append]
    exact ((Rel.encoding hX done).encodeFamily f st).bind fun _ => hset.bind fun _ => ih (f :: done)

/-- With all four candidates in view the selector's result is. -/
theorem Rel.selected_eq {s t : State} (h : Rel X (candView Config.selOrder.reverse) s t) (st : Nat) :
    t.selected st = s.selected st := by
  obtain ⟨_, hshr, hcand, _, _⟩ := h.cand_eq
  have hall : t.sel.cand = s.sel.cand := by
    simp only [Config.selOrder, List.reverse_cons, List.reverse_nil, List.nil_append, List.cons_append, List.map_cons,
      List.map_nil, List.cons.injEq, Cands.get] at hcand
    obtain ⟨hc, hb, ha6, ha, _⟩ := hcand
    exact Cands.mk.injEq .. ▸ ⟨ha, ha6, hb, hc⟩
  rw [State.selected, State.selected, hall, hshr]

theorem Rel.selectStripe (hX : Carried X) (st : Nat) (hv : ∀ s t, view t = view s → resultView t = resultView s)
    (hst : ∀ s st, resultView (s.onStripe st) = resultView s) :
    Sim (Stopped X) (Rel X view) (Rel X (candView Config.selOrder.reverse)) (selectStripe st) := by
  have hcands := Rel.encodeCandidates hX st Config.selOrder []
  rw [List.append_nil] at hcands
  refine (Rel.computeShr hX st hv hst).bind fun _ => hcands.bind fun _ => Sim.update fun s t h => ?_
  rw [h.selected_eq]
  exact h.setSel hX (f := fun x => { x with best := putBest x.best (s.selected st) }) (fun _ => rfl)
    (congrArg (fun v => (v.1, v.2.1, v.2.2.1, putBest v.2.2.2.1 (s.selected st), v.2.2.2.2)) h.view :)

theorem Rel.sizeStripe (hX : Carried X) (st : Nat) :
    Sim (Stopped X) (Rel X resultView) (Rel X resultView) (sizeStripe st) := by
  refine (Rel.selectStripe hX st (fun _ _ h => h) fun _ _ => rfl).bind fun _ => Sim.update fun s t h => ?_
  rw [h.selected_eq]
  exact h.setSel hX (f := fun x => { x with total := x.total + (s.selected st).len }) (fun _ => rfl)
    (congrArg (fun v => (v.2.2.2.1, v.2.2.2.2 + (s.selected st).len)) h.view :)

/-- The results and the write position of pass 2 (R156). -/
abbrev recordsView (s : State) : Nat × Nat := (s.sel.total, s.sel.wpos)

theorem Reaching.writeOffsets {E : Stop → State → State → Prop} {R : State → State → Prop} (hR : Reaching E R) (i ofs : Nat)
    (bs : List Best) : Sim E R R (writeOffsets i ofs bs) := by
  induction bs generalizing i ofs with
  | nil => exact Sim.pure ()
  | cons b bs ih =>
    refine Sim.get_bind (fun s t h => by simp only [hR.blobBase h]) fun s => ?_
    exact (hR.writeBytes _ _).bind fun _ => ih _ _

theorem Rel.writeRecords (hX : Carried X) (bs : List Best) :
    Sim (Stopped X) (Rel X recordsView) (Rel X recordsView) (writeRecords bs) := by
  have hR : Reaching (Stopped X) (Rel X recordsView) := Rel.reaching hX fun _ _ => rfl
  have hpos {s t : State} (h : Rel X recordsView s t) : t.sel.total = s.sel.total ∧ t.sel.wpos = s.sel.wpos := by
    have hv := h.view
    simp only [Prod.mk.injEq] at hv
    exact hv
  induction bs with
  | nil => exact Sim.pure ()
  | cons b bs ih =>
    refine Sim.get_bind (fun s t h => by simp only [hR.blobBase h, hR.transpEn h, hpos h]) fun s => ?_
    refine (hR.writeByte _ _).bind fun _ => (hR.writeBytes _ _).bind fun _ => ?_
    have hmove : Sim (Stopped X) (Rel X recordsView) (Rel X recordsView)
        (modify fun s => s.setSel { s.sel with wpos := s.sel.wpos + b.len }) :=
      Sim.update fun s t h => h.setSel hX (f := fun x => { x with wpos := x.wpos + b.len }) (fun _ => rfl)
        (congrArg (fun v => (v.1, v.2 + b.len)) h.view :)
    refine hmove.bind fun _ => Sim.get_bind (fun s t h => by simp only [hpos h]) fun s => ?_
    exact Sim.ite (fun _ => hR.throw rfl) fun _ => ih

theorem Rel.encodeImage (hX : Carried X) : Sim (Stopped X) (Rel X noView) (Rel X noView) encodeImage := by
  have hR := Rel.launching hX
  have hR' : Reaching (Stopped X) (Rel X resultView) := Rel.reaching hX fun _ _ => rfl
  refine hR.checkPrecond.bind fun _ => Sim.get_bind (fun s t h => by simp only [hR.width h, hR.stripes h]) fun s => ?_
  refine (hR.checkLaunch _).bind fun _ => ?_
  have hclear : Sim (Stopped X) (Rel X noView) (Rel X resultView)
      (modify fun s => s.setSel { s.sel with best := [], total := 4 * s.stripes }) :=
    Sim.update fun s t h => by
      rw [hR.stripes h]
      exact h.setSel hX (f := fun x => { x with best := [], total := 4 * s.stripes }) (fun _ => rfl) rfl
  refine hclear.bind fun _ => (Sim.each (Rel.sizeStripe hX) _ _).bind fun _ => ?_
  refine Sim.get_bind (fun s t h => by
    have hv := h.view
    simp only [Prod.mk.injEq] at hv
    simp only [hR'.blobSize h, hR'.stripes h, hv]) fun s => ?_
  refine Sim.ite (fun _ => hR'.throw rfl) fun _ => (hR'.writeOffsets _ _ _).bind fun _ => ?_
  have hpos : Sim (Stopped X) (Rel X resultView) (Rel X recordsView)
      (modify fun s => s.setSel { s.sel with wpos := 4 * s.stripes }) :=
    Sim.update fun s t h => by
      rw [hR'.stripes h]
      exact h.setSel hX (f := fun x => { x with wpos := 4 * s.stripes }) (fun _ => rfl)
        (congrArg (fun v => (v.2, 4 * s.stripes)) h.view :)
  refine hpos.bind fun _ => (Rel.writeRecords hX _).bind fun _ => ?_
  exact (Sim.pure _).weaken fun _ _ h => h.weaken rfl

end

end Sys2Proof.Machine

namespace Sys2Proof.Machine

/-! ## The invariant, update by update -/

theorem State.Inv.mem {s : State} (h : s.Inv) : s.mem.wf = true := h.1
theorem State.Inv.bp {s : State} (h : s.Inv) : s.bp.ok := h.2.1
theorem State.Inv.bu {s : State} (h : s.Inv) : s.bu.ok := h.2.2.1
theorem State.Inv.run {s : State} (h : s.Inv) : s.dp.run ≤ 255 := h.2.2.2.1
theorem State.Inv.litcnt {s : State} (h : s.Inv) : s.mask.litcnt ≤ 127 := h.2.2.2.2

/-- Only five parts of the state matter to the invariant. -/
theorem State.Inv.of_parts {s t : State} (h : s.Inv) (hmem : t.mem = s.mem) (hbp : t.bp = s.bp) (hbu : t.bu = s.bu)
    (hdp : t.dp = s.dp) (hmask : t.mask = s.mask) : t.Inv := by
  unfold State.Inv
  rw [hmem, hbp, hbu, hdp, hmask]
  exact h

/-! ## Two runs that differ in `LOGLEVEL` -/

/-- The second state is the first with another `LOGLEVEL`; where `inv` is assumed, the first meets the invariant. -/
def Twin (inv : Prop) (v : Byte) (s t : State) : Prop := t = s.withLog v ∧ (inv → s.Inv)

section
variable {inv : Prop} {v : Byte}

/-- An update that does not look at `LOGLEVEL` and keeps the invariant. -/
theorem Twin.update {f : State → State} (hlog : ∀ s, f (s.withLog v) = (f s).withLog v) {s t : State}
    (h : Twin inv v s t) (hinv : s.Inv → (f s).Inv) : Twin inv v (f s) (f t) := by
  obtain ⟨rfl, hs⟩ := h
  exact ⟨hlog s, fun hi => hinv (hs hi)⟩

theorem Twin.carried : Carried (Twin inv v) where
  setMem a b ha h := h.update (f := fun s => s.setMem (s.mem.write a b)) (fun _ => rfl) fun hi =>
    ⟨Memory.wf_write hi.mem ha, hi.bp, hi.bu, hi.run, hi.litcnt⟩
  warn h := h.update (fun _ => rfl) fun hi => hi.of_parts rfl rfl rfl rfl rfl
  setDp f hf h := h.update (f := fun s => s.setDp (f s.dp)) (fun _ => rfl) fun hi =>
    ⟨hi.mem, hi.bp, hi.bu, hf _ hi.run, hi.litcnt⟩
  setBp f hf h := h.update (f := fun s => s.setBp (f s.bp)) (fun _ => rfl) fun hi =>
    ⟨hi.mem, hf hi.bp, hi.bu, hi.run, hi.litcnt⟩
  setBu f hf h := h.update (f := fun s => s.setBu (f s.bu)) (fun _ => rfl) fun hi =>
    ⟨hi.mem, hi.bp, hf hi.bu, hi.run, hi.litcnt⟩
  setSel f h := h.update (f := fun s => s.setSel (f s.sel)) (fun _ => rfl) fun hi => hi.of_parts rfl rfl rfl rfl rfl
  setMask f hf h := h.update (f := fun s => s.setMask (f s.mask)) (fun _ => rfl) fun hi =>
    ⟨hi.mem, hi.bp, hi.bu, hi.run, hf _ hi.litcnt⟩

/-- Twins agree on every view that does not look at `LOGLEVEL`. -/
theorem Twin.rel {β : Type} {view : State → β} (hv : ∀ s, view (s.withLog v) = view s) {s t : State}
    (h : Twin inv v s t) : Rel (Twin inv v) view s t := by
  have ht := h
  obtain ⟨rfl, _⟩ := h
  exact ⟨rfl, rfl, rfl, hv s, ht⟩

end

/-! ## Outcomes -/

/-- Two outcomes alike: next states related by `Q`, or the same stop. -/
def AlikeOutcome (Q : State → State → Prop) :
    Host.Outcome State Fault Refusal → Host.Outcome State Fault Refusal → Prop
  | .next s, .next t => Q s t
  | .fault f, .fault f' => f = f'
  | .refused r, .refused r' => r = r'
  | _, _ => False

section
variable {β : Type} {X Q : State → State → Prop} {view : State → β}

theorem stopped_alike {e : Stop} {s t : State} (h : Stopped X e s t)
    (hraise : ∀ e s t, Stopped X (.raise e) s t → Q (raiseError e s) (raiseError e t)) :
    AlikeOutcome Q (stopped e s) (stopped e t) := by
  cases e with
  | raise e => exact hraise e s t h
  | fault f => exact rfl
  | refuse r => exact rfl

theorem runUnit_alike {body : Act Unit} {s t : State}
    (h : Alike (Stopped X) (Rel X view) (body.run s) (body.run t))
    (hraise : ∀ e s t, Stopped X (.raise e) s t → Q (raiseError e s) (raiseError e t))
    (hok : ∀ s t, Rel X view s t → Q s t) : AlikeOutcome Q (runUnit body s) (runUnit body t) := by
  unfold runUnit
  cases hs : body.run s <;> cases ht : body.run t <;> rw [hs, ht] at h
  · exact hok _ _ h.2
  · exact h.elim
  · exact h.elim
  · obtain ⟨rfl, hstop⟩ := h
    exact stopped_alike hstop hraise

theorem runCommand_alike {body : Act Nat} {s t : State} (hs : s.regs.status.busy = false) (ht : t.regs.status.busy = false)
    (h : Alike (Stopped X) (Rel X view) (body.run (startCommand s)) (body.run (startCommand t)))
    (hraise : ∀ e s t, Stopped X (.raise e) s t → Q (raiseError e s) (raiseError e t))
    (hok : ∀ n s t, Rel X view s t → Q (completeOk n s) (completeOk n t)) :
    AlikeOutcome Q (runCommand body s) (runCommand body t) := by
  unfold runCommand
  rw [hs, ht]
  simp only [Bool.false_eq_true, if_false]
  cases hs : body.run (startCommand s) <;> cases ht : body.run (startCommand t) <;> rw [hs, ht] at h
  · obtain ⟨rfl, hrel⟩ := h
    exact hok _ _ _ hrel
  · exact h.elim
  · exact h.elim
  · obtain ⟨rfl, hstop⟩ := h
    exact stopped_alike hstop hraise

end

section
variable {inv : Prop} {v : Byte} {β γ : Type} {view : State → β} {view' : State → γ}

theorem Twin.raiseError (e : Err) (s t : State) (h : Stopped (Twin inv v) (.raise e) s t) :
    Twin inv v (raiseError e s) (raiseError e t) :=
  h.1.rest.update (fun _ => rfl) fun hi => hi.of_parts rfl rfl rfl rfl rfl

/-- A unit operation takes twins to twins. -/
theorem Twin.runUnit {body : Act Unit} (hb : Sim (Stopped (Twin inv v)) (Rel (Twin inv v) view) (Rel (Twin inv v) view') body)
    (hv : ∀ s, view (s.withLog v) = view s) {s t : State} (h : Twin inv v s t) :
    AlikeOutcome (Twin inv v) (runUnit body s) (runUnit body t) :=
  runUnit_alike (hb (h.rel hv)) Twin.raiseError fun _ _ hr => hr.rest

/-- A command takes twins to twins. -/
theorem Twin.runCommand {body : Act Nat}
    (hb : Sim (Stopped (Twin inv v)) (Rel (Twin inv v) noView) (Rel (Twin inv v) noView) body) {s t : State}
    (h : Twin inv v s t) : AlikeOutcome (Twin inv v) (runCommand body s) (runCommand body t) := by
  have hstart : Twin inv v (startCommand s) (startCommand t) :=
    h.update (fun _ => rfl) fun hi => hi.of_parts rfl rfl rfl rfl rfl
  have hbusy : t.regs.status.busy = s.regs.status.busy := by rw [h.1]; rfl
  cases hs : s.regs.status.busy with
  | true =>
    rw [runCommand_busy hs, runCommand_busy (hbusy.trans hs)]
    exact h
  | false =>
    exact runCommand_alike hs (hbusy.trans hs) (hb (hstart.rel fun _ => rfl)) Twin.raiseError fun n _ _ hr =>
      hr.rest.update (f := completeOk n) (fun _ => rfl) fun hi => hi.of_parts rfl rfl rfl rfl rfl

/-- The Bit Packer as the only working register in view. -/
abbrev packerView (s : State) : Packer := s.bp

theorem Rel.packerWrite {X : State → State → Prop} (hX : Carried X) (b : Byte) (n : Nat) :
    Sim (Stopped X) (Rel X packerView) (Rel X packerView) (packerWrite b n) := by
  intro s t h
  have hbp : t.bp = s.bp := h.view
  rw [packerWrite_run, packerWrite_run, hbp]
  split
  · next hn =>
    split
    · refine ⟨rfl, h.seen, h.transp, h.mem, rfl, ?_⟩
      have hw := hX.setBp (fun p => p.writeNbits b n) (fun hp => (Packer.writeNbits_spec hp b hn.2).1) h.rest
      rw [hbp] at hw
      exact hw
    · exact ⟨rfl, h.weaken rfl, fun h' => by cases h'⟩
  · exact ⟨rfl, h.weaken rfl, fun h' => by cases h'⟩

theorem Rel.unpackerInit {X : State → State → Prop} (hX : Carried X) (start stop : Nat) :
    Sim (Stopped X) (Rel X noView) (Rel X noView) (unpackerInit start stop) :=
  Sim.update fun _ _ h => ⟨h.seen, h.transp, h.mem, rfl,
    hX.setBu (fun u => { u with racc := 0, rcnt := 0, rptr := start, rend := stop, start := start })
      (fun _ => Unpacker.init_ok _ _ _) h.rest⟩

/-- Every instruction takes twins to twins: it neither reads nor writes `LOGLEVEL` and keeps the invariant. -/
theorem exec_twin (i : Instr) {s t : State} (h : Twin inv v s t) : AlikeOutcome (Twin inv v) (exec i s) (exec i t) := by
  have hX : Carried (Twin inv v) := Twin.carried
  have hD := Rel.decoding hX
  have hM := Rel.unmasking hX
  have hE := Rel.encoding hX []
  cases i with
  | encImage => exact Twin.runCommand (Rel.encodeImage hX) h
  | decImage => exact Twin.runCommand (Rel.decodeImage hX) h
  | encMask => exact Twin.runCommand (Rel.encodeMask hX) h
  | decMask => exact Twin.runCommand (Rel.decodeMask hX) h
  | bpInit => exact hX.setBp (fun _ => Packer.init) (fun _ => Packer.init_ok) h
  | bpWriteBit b => exact Twin.runUnit (Rel.packerWrite hX _ _) (fun _ => rfl) h
  | bpWriteNbits b n => exact Twin.runUnit (Rel.packerWrite hX _ _) (fun _ => rfl) h
  | bpWriteByte b => exact Twin.runUnit (Rel.packerWrite hX _ _) (fun _ => rfl) h
  | bpFlush => exact hX.setBp Packer.flush (fun _ => Packer.flush_ok _) h
  | buInit start stop => exact Twin.runUnit (Rel.unpackerInit hX _ _) (fun _ => rfl) h
  | buFill => exact Twin.runUnit hD.unpackerFill (fun _ => rfl) h
  | buReadBit => exact Twin.runUnit ((hD.readNbits 1).bind fun _ => Sim.pure ()) (fun _ => rfl) h
  | buReadNbits n => exact Twin.runUnit ((hD.readNbits _).bind fun _ => Sim.pure ()) (fun _ => rfl) h
  | computeShr st => exact Twin.runUnit (Rel.computeShr hX _ (fun _ _ h => h) fun _ _ => rfl) (fun _ => rfl) h
  | select st => exact Twin.runUnit (Rel.selectStripe hX _ (fun _ _ h => h) fun _ _ => rfl) (fun _ => rfl) h
  | encMaskCol st => exact Twin.runUnit (Rel.encodeColumn hX _ (fun _ _ h => h) fun _ _ => rfl) (fun _ => rfl) h
  | decMaskCol st ofs => exact Twin.runUnit (Rel.decodeColumn hX _ _ (view := noView)) (fun _ => rfl) h
  | encA st => exact Twin.runUnit ((hE.encodeFamily .a _).weaken fun _ _ h => h.1) (fun _ => rfl) h
  | encA6 st => exact Twin.runUnit ((hE.encodeFamily .a6 _).weaken fun _ _ h => h.1) (fun _ => rfl) h
  | encB st => exact Twin.runUnit ((hE.encodeFamily .b _).weaken fun _ _ h => h.1) (fun _ => rfl) h
  | encC st => exact Twin.runUnit ((hE.encodeFamily .c _).weaken fun _ _ h => h.1) (fun _ => rfl) h
  | decA st | decA6 st | decAT st | decA6T st => exact Twin.runUnit (Rel.decodeA hX _ _ _) (fun _ => rfl) h
  | decB st | decC st | decBT st | decCT st => exact Twin.runUnit (Rel.decodeB hX _ _ _) (fun _ => rfl) h
  | aRep => exact Twin.runUnit hD.applyARep (fun _ => rfl) h
  | aLit b => exact Twin.runUnit (hD.applyALit _) (fun _ => rfl) h
  | aDelta d => exact Twin.runUnit (hD.applyADelta _) (fun _ => rfl) h
  | aRun n => exact Twin.runUnit (hD.applyARun _) (fun _ => rfl) h
  | bRep => exact Twin.runUnit hD.applyBRep (fun _ => rfl) h
  | bLit b => exact Twin.runUnit (hD.applyBLit _) (fun _ => rfl) h
  | bStep => exact Twin.runUnit hD.applyBStep (fun _ => rfl) h
  | bRev => exact Twin.runUnit hD.applyBRev (fun _ => rfl) h
  | mRep n b => exact Twin.runUnit (hM.applyMRep _ _) (fun _ => rfl) h
  | mLit n => exact Twin.runUnit (hM.applyMLit _) (fun _ => rfl) h
  | mRsvLit0 | mRsvRep0 => exact Twin.runUnit (body := applyMReserved) (view' := columnView) (hM.throw _) (fun _ => rfl) h
  -- The forty type bytes (R74).
  | _ => exact Twin.runUnit (Rel.dispatchType hX _ _ _) (fun _ => rfl) h

end

/-! ## `LOGLEVEL` -/

/-- Settles O20: twins without the invariant. -/
theorem loglevelHasNoEffect : Obligations.LoglevelHasNoEffect := by
  intro i s v
  have h := exec_twin i (inv := False) (v := v) (s := s) ⟨rfl, False.elim⟩
  cases hs : exec i s <;> cases ht : exec i (s.withLog v) <;> rw [hs, ht] at h
  case next.next => rw [mapNext, h.1]
  case fault.fault => rw [mapNext, show _ = _ from h]
  case refused.refused => rw [mapNext, show _ = _ from h]
  all_goals exact h.elim

/-! ## The invariant -/

theorem AlikeOutcome.next_left {Q : State → State → Prop} {o o' : Host.Outcome State Fault Refusal} {t : State}
    (h : AlikeOutcome Q o o') (ho : o = .next t) : ∃ u, Q t u := by
  subst ho
  cases o' with
  | next u => exact ⟨u, h⟩
  | fault f => exact h.elim
  | refused r => exact h.elim

/-- Every instruction keeps the invariant. -/
theorem exec_inv {i : Instr} {s t : State} (hs : s.Inv) (h : exec i s = .next t) : t.Inv := by
  obtain ⟨u, hu⟩ := (exec_twin i (inv := True) (v := 0) (s := s) ⟨rfl, fun _ => hs⟩).next_left h
  exact hu.2 trivial

/-- An outcome whose next state, if it has one, meets the invariant. -/
def InvOutcome (o : Host.Outcome State Fault Refusal) : Prop := ∀ t, o = .next t → t.Inv

/-- What a request turns out to be keeps the invariant. -/
def InvFetched : Fetched → Prop
  | .run _ s => s.Inv
  | .settled o => InvOutcome o

theorem invOutcome_next {s : State} (h : s.Inv) : InvOutcome (.next s) := fun _ ht => by cases ht; exact h

theorem invOutcome_refused (r : Refusal) : InvOutcome (.refused r) := fun _ ht => by cases ht

theorem invOutcome_stopped (e : Stop) {s : State} (h : s.Inv) : InvOutcome (stopped e s) := by
  cases e with
  | raise e => exact invOutcome_next (h.of_parts rfl rfl rfl rfl rfl)
  | fault f => exact fun _ ht => by cases ht
  | refuse r => exact invOutcome_refused r

/-- Pseudocode that takes twins to twins keeps the invariant, whether it goes on or stops. -/
theorem Sim.inv {α β γ : Type} {view : State → β} {view' : State → γ} {x : Act α}
    (hx : Sim (Stopped (Twin True 0)) (Rel (Twin True 0) view) (Rel (Twin True 0) view') x)
    (hv : ∀ s, view (s.withLog 0) = view s) {s : State} (hs : s.Inv) :
    (∀ a t, x.run s = .ok a t → t.Inv) ∧ ∀ e t, x.run s = .error e t → t.Inv := by
  have htwin : Twin True 0 s (s.withLog 0) := ⟨rfl, fun _ => hs⟩
  have h := hx (htwin.rel hv)
  refine ⟨fun a t ht => ?_, fun e t ht => ?_⟩ <;> rw [ht] at h <;> cases hr : x.run (s.withLog 0) <;> rw [hr] at h
  · exact h.2.rest.2 trivial
  · exact h.elim
  · exact h.elim
  · exact h.2.1.rest.2 trivial

theorem fetchBy_inv {β γ : Type} {view : State → β} {view' : State → γ} {read : Act Instr}
    (hx : Sim (Stopped (Twin True 0)) (Rel (Twin True 0) view) (Rel (Twin True 0) view') read)
    (hv : ∀ s, view (s.withLog 0) = view s) {s : State} (hs : s.Inv) : InvFetched (fetchBy read s) := by
  obtain ⟨hok, herr⟩ := hx.inv hv hs
  unfold fetchBy
  cases hr : read.run s with
  | ok i t => exact hok i t hr
  | error e t => exact invOutcome_stopped e (herr e t hr)

theorem illegalCommand_inv {s : State} (hs : s.Inv) : (illegalCommand s).Inv := by
  rw [illegalCommand]
  split
  · exact hs
  · exact hs.of_parts rfl rfl rfl rfl rfl

theorem writeRegister_inv (off v : Word) {s : State} (hs : s.Inv) : (writeRegister s off v).Inv := by
  rw [writeRegister]
  split
  · exact hs.of_parts rfl rfl rfl rfl rfl
  split
  · exact hs
  · exact hs.of_parts rfl rfl rfl rfl rfl

theorem fetchWrite_inv (off v : Word) {s : State} (hs : s.Inv) : InvFetched (fetchWrite s off v) := by
  rw [fetchWrite]
  split
  · split
    · cases decode .cmd s.dp.shr [v.setWidth 8] with
      | ok i => exact hs
      | error e => exact invOutcome_next (illegalCommand_inv hs)
    · exact invOutcome_next (writeRegister_inv off v hs)
  · exact invOutcome_refused _

theorem fetchRead_inv (off : Word) {s : State} (hs : s.Inv) : InvFetched (fetchRead s off) := by
  rw [fetchRead]
  split
  · exact invOutcome_next (hs.of_parts rfl rfl rfl rfl rfl)
  · exact invOutcome_refused _

theorem fetchSelect_inv (f : Format) (lines : List Byte) {s : State} (hs : s.Inv) : InvFetched (fetchSelect s f lines) := by
  rw [fetchSelect]
  cases decode f s.dp.shr lines with
  | ok i => exact hs
  | error e => exact invOutcome_refused _

theorem fetchTypeInstr_inv {s : State} (hs : s.Inv) : InvFetched (fetchTypeInstr s) := by
  obtain ⟨hok, herr⟩ := (Rel.fetchType Twin.carried).inv (fun _ => rfl) hs
  rw [fetchTypeInstr]
  cases hr : fetchType.run s with
  | error e t => exact invOutcome_stopped e (herr e t hr)
  | ok b t =>
    cases hd : decode .type s.dp.shr [b] with
    | ok i =>
      simp only [hd]
      exact hok b t hr
    | error e =>
      simp only [hd]
      exact invOutcome_next ((hok b t hr).of_parts rfl rfl rfl rfl rfl)

theorem fetchRequest_inv (r : Request) {s : State} (hs : s.Inv) : InvFetched (fetchRequest r s) := by
  have hD := Rel.decoding (X := Twin True 0) Twin.carried
  cases r with
  | regWrite off v => rw [fetchRequest]; exact fetchWrite_inv off v hs
  | regRead off => rw [fetchRequest]; exact fetchRead_inv off hs
  | bpop lines => rw [fetchRequest]; exact fetchSelect_inv .bpop lines hs
  | buop lines => rw [fetchRequest]; exact fetchSelect_inv .buop lines hs
  | uop lines => rw [fetchRequest]; exact fetchSelect_inv .uop lines hs
  | nextType => rw [fetchRequest]; exact fetchTypeInstr_inv hs
  | nextACode => rw [fetchRequest]; exact fetchBy_inv hD.fetchACode (fun _ => rfl) hs
  | nextBCode => rw [fetchRequest]; exact fetchBy_inv hD.fetchBCode (fun _ => rfl) hs
  | nextRun => rw [fetchRequest]; exact fetchBy_inv (Rel.unmasking Twin.carried).fetchMaskRun (fun _ => rfl) hs

theorem fetch_inv {s : State} (hs : s.Inv) : InvFetched (fetch s) := by
  rw [fetch]
  cases s.bus with
  | nil => exact invOutcome_next hs
  | cons r rest => exact fetchRequest_inv r (hs.of_parts rfl rfl rfl rfl rfl)

/-- Settles O18: fetching keeps the invariant, and so does the instruction fetched. -/
theorem invariantKeptByStep : Obligations.InvariantKeptByStep := by
  intro s t hs hstep
  have hf := fetch_inv hs
  rw [step] at hstep
  cases hr : fetch s with
  | run i u =>
    rw [hr] at hf hstep
    exact exec_inv hf hstep
  | settled o =>
    rw [hr] at hf hstep
    exact hf t hstep

/-- Settles O17. -/
theorem invariantAtReset : Obligations.InvariantAtReset := by
  have hbu : State.reset.bu.ok := Unpacker.init_ok State.reset.bu 0 0
  exact And.intro Memory.wf_reset ⟨Packer.init_ok, hbu, Nat.zero_le 255, Nat.zero_le 127⟩

/-! ## A command and its arguments -/

/-- What O21 carries along: an equal `LOGLEVEL`. -/
def SameLog (s t : State) : Prop := t.regs.loglevel = s.regs.loglevel

theorem SameLog.carried : Carried SameLog where
  setMem _ _ _ h := h
  warn h := h
  setDp _ _ h := h
  setBp _ _ h := h
  setBu _ _ h := h
  setSel _ h := h
  setMask _ _ h := h

/-- Registers that agree on what is seen and on `LOGLEVEL` differ at most in `OUT_LEN`. -/
theorem Regs.eq_of_seen {r r' : Regs} (h : r'.seen = r.seen) (hlog : r'.loglevel = r.loglevel) :
    r' = { r with outLen := r'.outLen } := by
  cases r
  cases r'
  simp only [Regs.seen, Regs.mk.injEq] at h hlog ⊢
  simp only [h, hlog, and_self]

/-- The host sees the same registers and memory. -/
def HostSame (s t : State) : Prop := s.regs = t.regs ∧ s.mem = t.mem

theorem sameResult_of_alike {o o' : Host.Outcome State Fault Refusal} (h : AlikeOutcome HostSame o o') :
    SameResult o o' := by
  cases o <;> cases o'
  case next.next => exact h
  case fault.fault => exact h
  case refused.refused => exact h
  all_goals exact h.elim

theorem raiseError_hostSame (e : Err) (s t : State) (h : Stopped SameLog (.raise e) s t) :
    HostSame (raiseError e s) (raiseError e t) := by
  obtain ⟨hrel, hstripe⟩ := h
  have hregs := Regs.eq_of_seen hrel.seen hrel.rest
  have hinfo : (if e.namesStripe then BitVec.ofNat Config.dimw t.sel.stripe else 0) =
      if e.namesStripe then BitVec.ofNat Config.dimw s.sel.stripe else 0 := by
    split
    · next he => rw [hstripe he]
    · rfl
  refine ⟨?_, hrel.mem.symm⟩
  rw [raiseError_eq, raiseError_eq, State.setRegs_regs, State.setRegs_regs, hinfo, hrel.transp, hregs]

theorem completeOk_hostSame {n : Nat} {s t : State} (h : Rel SameLog noView s t) :
    HostSame (completeOk n s) (completeOk n t) := by
  refine ⟨?_, h.mem.symm⟩
  rw [completeOk_eq, completeOk_eq, State.setRegs_regs, State.setRegs_regs, h.transp, Regs.eq_of_seen h.seen h.rest]

/-- A command reads nothing of a state but its arguments and memory. -/
theorem runCommand_dependsOnArguments {body : Act Nat}
    (hb : Sim (Stopped SameLog) (Rel SameLog noView) (Rel SameLog noView) body) {s t : State}
    (hs : s.regs.status.busy = false) (ht : t.regs.status.busy = false)
    (hregs : s.regs.finished .ok false 0 0 0 = t.regs.finished .ok false 0 0 0) (hmem : s.mem = t.mem) :
    SameResult (runCommand body s) (runCommand body t) := by
  have hstart : Rel SameLog noView (startCommand s) (startCommand t) := by
    refine ⟨?_, rfl, hmem.symm, rfl, ?_⟩
    · exact (congrArg (fun r : Regs => Regs.seen { r with status := Status.started, errInfo := 0, warnCnt := 0 })
        hregs.symm :)
    · exact (congrArg Regs.loglevel hregs.symm :)
  exact sameResult_of_alike
    (runCommand_alike hs ht (hb hstart) raiseError_hostSame fun _ _ _ h => completeOk_hostSame h)

/-- Settles O21: no command has a working register in view when it starts. -/
theorem commandDependsOnArguments : Obligations.CommandDependsOnArguments := by
  intro i s t hi hs ht hregs hmem
  rcases hi with rfl | rfl | rfl | rfl
  · exact runCommand_dependsOnArguments (Rel.encodeImage SameLog.carried) hs ht hregs hmem
  · exact runCommand_dependsOnArguments (Rel.decodeImage SameLog.carried) hs ht hregs hmem
  · exact runCommand_dependsOnArguments (Rel.encodeMask SameLog.carried) hs ht hregs hmem
  · exact runCommand_dependsOnArguments (Rel.decodeMask SameLog.carried) hs ht hregs hmem

end Sys2Proof.Machine

namespace Sys2Proof.Machine

/-! ## What one run of pseudocode keeps

The footprints of the commands (O59, O60) and the untouched memory of an idle engine (O10) are facts about single runs, and
about which bytes they write: triples over the pseudocode. -/

/-- How a run ends: with a value and a state in `Q`, or with a stop and a state in `E`. -/
def Ended {α : Type} (E : Stop → State → Prop) (Q : α → State → Prop) : EStateM.Result Stop State α → Prop
  | .ok a t => Q a t
  | .error e t => E e t

/-- From every state in `P` the run of `x` ends in `Q` or stops in `E`. -/
def Triple {α : Type} (E : Stop → State → Prop) (P : State → Prop) (x : Act α) (Q : α → State → Prop) : Prop :=
  ∀ ⦃s : State⦄, P s → Ended E Q (x.run s)

/-- Runs from a state in `I` end in one. -/
abbrev Keeps {α : Type} (E : Stop → State → Prop) (I : State → Prop) (x : Act α) : Prop := Triple E I x fun _ => I

section
variable {α β : Type} {E : Stop → State → Prop} {P P' I : State → Prop} {Q : α → State → Prop} {Q' : β → State → Prop}

theorem Triple.weaken {R : α → State → Prop} {x : Act α} (h : Triple E P x Q) (hP : ∀ s, P' s → P s)
    (hQ : ∀ a s, Q a s → R a s) : Triple E P' x R := by
  intro s hs
  have hend := h (hP s hs)
  cases hr : x.run s with
  | ok a t => rw [hr] at hend; exact hQ a t hend
  | error e t => rw [hr] at hend; exact hend

theorem Triple.pure {a : α} (h : ∀ s, P s → Q a s) : Triple E P (Pure.pure a) Q := fun s hs => h s hs

theorem Triple.throw {e : Stop} (h : ∀ s, P s → E e s) : Triple E P (MonadExcept.throw e : Act α) Q := fun s hs => h s hs

theorem Triple.bind {x : Act α} {f : α → Act β} (hx : Triple E P x Q) (hf : ∀ a, Triple E (Q a) (f a) Q') :
    Triple E P (x >>= f) Q' := by
  intro s hs
  have hend := hx hs
  rw [EStateM.run_bind]
  cases hr : x.run s with
  | ok a t => rw [hr] at hend; exact hf a hend
  | error e t => rw [hr] at hend; exact hend

/-- From one state that is in `P`. -/
theorem Triple.at {x : Act α} {s : State} (h : Triple E P x Q) (hs : P s) : Triple E (fun t => t = s) x Q :=
  h.weaken (fun _ ht => ht ▸ hs) fun _ _ hq => hq

/-- A program that continues from the state it finds. -/
theorem Triple.get_bind {f : State → Act α} (h : ∀ s, P s → Triple E (fun t => t = s) (f s) Q) :
    Triple E P (MonadState.get >>= f) Q :=
  fun s hs => h s hs rfl

/-- The same where it matters only that the state found was in `P`. -/
theorem Triple.read_bind {f : State → Act α} (h : ∀ s, P s → Triple E P (f s) Q) :
    Triple E P (MonadState.get >>= f) Q :=
  Triple.get_bind fun s hs => (h s hs).at hs

theorem Triple.update {f : State → State} {Q : Unit → State → Prop} (h : ∀ s, P s → Q () (f s)) :
    Triple E P (modify f) Q :=
  fun s hs => h s hs

theorem Triple.ite {c : Prop} [Decidable c] {x y : Act α} (hx : c → Triple E P x Q) (hy : ¬ c → Triple E P y Q) :
    Triple E P (if c then x else y) Q := by
  split
  · next h => exact hx h
  · next h => exact hy h

/-- Keeping a predicate is what two runs from one state have in common. -/
theorem Keeps.sim {x : Act α} (h : Keeps E I x) :
    Sim (fun e s t => t = s ∧ E e s) (fun s t => t = s ∧ I s) (fun s t => t = s ∧ I s) x := by
  rintro _ s ⟨rfl, hs⟩
  have hend := h hs
  cases hr : x.run s <;> rw [hr] at hend
  · exact ⟨rfl, rfl, hend⟩
  · exact ⟨rfl, rfl, hend⟩

theorem Keeps.of_sim {x : Act α}
    (h : Sim (fun e s t => t = s ∧ E e s) (fun s t => t = s ∧ I s) (fun s t => t = s ∧ I s) x) : Keeps E I x := by
  intro s hs
  have hend := h ⟨rfl, hs⟩
  cases hr : x.run s <;> rw [hr] at hend
  · exact hend.2.2
  · exact hend.2.2

theorem Keeps.loop {body : Act Unit} (hb : Keeps E I body) (cond : State → Bool) (n : Nat) :
    Keeps E I (whileUpTo cond body n) :=
  Keeps.of_sim (Sim.loop (fun _ _ h => by rw [h.1]) hb.sim n)

/-- Setting `S`. -/
theorem Keeps.setStripe {st : Nat} (h : ∀ s, I s → I (s.onStripe st)) :
    Keeps E I (modify fun s => s.setSel { s.sel with stripe := st }) :=
  Triple.update h

/-- A loop over stripes with an invariant for each stripe. -/
theorem Triple.each {J : Nat → State → Prop} {body : Nat → Act Unit} (n i : Nat)
    (hb : ∀ j, i ≤ j → j < i + n → Triple E (J j) (body j) fun _ => J (j + 1)) :
    Triple E (J i) (eachFrom body n i) fun _ => J (i + n) := by
  induction n generalizing i with
  | zero => exact Triple.pure fun _ h => h
  | succ n ih =>
    refine (hb i le_rfl (by omega)).bind fun _ => ?_
    have hrest := ih (i + 1) fun j hj hj' => hb j (by omega) (by omega)
    rwa [Nat.add_right_comm] at hrest

theorem Triple.writeByte {a : Nat} {v : Byte} {Q : Unit → State → Prop} (hstop : ∀ s, P s → E s.unreached s)
    (hwrite : ∀ s, P s → s.reaches a = true → Q () (s.setMem (s.mem.write a v))) : Triple E P (writeByte a v) Q := by
  intro s hs
  rw [writeByte_run]
  split
  · next ha => exact hwrite s hs ha
  · exact hstop s hs

/-- A unit operation that goes on ended in `Q`, or raised an error in `E`. -/
theorem Triple.runUnit {body : Act Unit} {Q : Unit → State → Prop} (h : Triple E P body Q) {s t : State} (hs : P s)
    (ht : runUnit body s = .next t) : Q () t ∨ ∃ e t', E (.raise e) t' ∧ t = raiseError e t' := by
  have hend := h hs
  rcases runUnit_next ht with hr | ⟨e, t', hr, rfl⟩ <;> rw [hr] at hend
  · exact .inl hend
  · exact .inr ⟨e, t', hend, rfl⟩

/-- A command that goes on was ignored, completed in `Q`, or raised an error in `E`. -/
theorem Triple.runCommand {body : Act Nat} {Q : Nat → State → Prop} (h : Triple E P body Q) {s t : State}
    (hs : P (startCommand s)) (ht : runCommand body s = .next t) :
    (s.regs.status.busy = true ∧ t = s) ∨ (∃ n t', Q n t' ∧ t = completeOk n t') ∨
      ∃ e t', E (.raise e) t' ∧ t = raiseError e t' := by
  have hend := h hs
  rcases runCommand_next ht with hbusy | ⟨n, t', hr, rfl⟩ | ⟨e, t', hr, rfl⟩
  · exact .inl hbusy
  · rw [hr] at hend
    exact .inr (.inl ⟨n, t', hend, rfl⟩)
  · rw [hr] at hend
    exact .inr (.inr ⟨e, t', hend, rfl⟩)

end

end Sys2Proof.Machine

namespace Sys2Proof.Machine

/-! ### Predicates that reading keeps

`rows` is the height of the picture or plane, which no operation changes. -/

/-- A predicate with a fixed height that does not look at the datapath, the Bit Packer or the Bit Unpacker. -/
structure Kept (rows : Nat) (E : Stop → State → Prop) (I : State → Prop) : Prop where
  stop : ∀ {s} (e : Stop), I s → E e s
  height : ∀ {s}, I s → s.regs.height.toNat = rows
  setDp : ∀ {s} (d : Datapath), I s → I (s.setDp d)
  setBp : ∀ {s} (p : Packer), I s → I (s.setBp p)
  setBu : ∀ {s} (u : Unpacker), I s → I (s.setBu u)

/-- A predicate that writing a pixel of the current stripe keeps. -/
structure Painting (rows : Nat) (E : Stop → State → Prop) (I : State → Prop) : Prop extends Kept rows E I where
  setSel : ∀ {s} (x : Selector), x.stripe = s.sel.stripe → I s → I (s.setSel x)
  pixel : ∀ {s} (k : Nat) (v : Byte), k < 8 * rows ∨ k = 0 → s.reaches (s.pixelAddr s.dp.fam k) = true → I s →
    I (s.setMem (s.mem.write (s.pixelAddr s.dp.fam k) v))

/-- A predicate that writing a row of the current stripe's column keeps. -/
structure Filling (rows : Nat) (E : Stop → State → Prop) (I : State → Prop) : Prop extends Kept rows E I where
  setMask : ∀ {s} (m : MaskRegs), I s → I (s.setMask m)
  row : ∀ {s} (y : Nat) (v : Byte), y < rows → s.reaches (s.columnAddr y) = true → I s →
    I (s.setMem (s.mem.write (s.columnAddr y) v))

/-- A predicate that looks at no more of the selector and the mask codec than the results of earlier stripes. -/
structure Sizing (rows : Nat) (E : Stop → State → Prop) (I : State → Prop) : Prop extends Kept rows E I where
  setSel : ∀ {s} (x : Selector), x.best = s.sel.best → x.total = s.sel.total → I s → I (s.setSel x)
  setMask : ∀ {s} (m : MaskRegs), m.zofs = s.mask.zofs → m.recs = s.mask.recs → I s → I (s.setMask m)

section
variable {rows : Nat} {E : Stop → State → Prop} {I : State → Prop}

theorem Kept.throw {α : Type} {Q : α → State → Prop} (hI : Kept rows E I) (e : Stop) :
    Triple E I (MonadExcept.throw e : Act α) Q :=
  Triple.throw fun _ => hI.stop e

theorem Kept.npix (hI : Kept rows E I) {s : State} (h : I s) : s.npix = 8 * rows := by
  rw [State.npix, hI.height h]

theorem Kept.update (hI : Kept rows E I) (f : Datapath → Datapath) : Keeps E I (Machine.setDp f) :=
  Triple.update fun _ h => hI.setDp _ h

theorem Kept.readByte (hI : Kept rows E I) (a : Nat) : Keeps E I (readByte a) := by
  intro s h
  rw [readByte_run]
  split
  · exact h
  · exact hI.stop _ h

theorem Kept.readLE (hI : Kept rows E I) (n a : Nat) : Keeps E I (readLE n a) := by
  induction n generalizing a with
  | zero => exact Triple.pure fun _ h => h
  | succ n ih => exact (hI.readByte a).bind fun b => (ih (a + 1)).bind fun rest => Triple.pure fun _ h => h

theorem Kept.readPixels (hI : Kept rows E I) (f : Family) (n k : Nat) : Keeps E I (readPixels f n k) := by
  induction n generalizing k with
  | zero => exact Triple.pure fun _ h => h
  | succ n ih =>
    refine Triple.read_bind fun s _ => (hI.readByte _).bind fun v => (ih (k + 1)).bind fun vs => ?_
    exact Triple.pure fun _ h => h

theorem Kept.readColumn (hI : Kept rows E I) (n y : Nat) : Keeps E I (readColumn n y) := by
  induction n generalizing y with
  | zero => exact Triple.pure fun _ h => h
  | succ n ih =>
    refine Triple.read_bind fun s _ => (hI.readByte _).bind fun v => (ih (y + 1)).bind fun vs => ?_
    exact Triple.pure fun _ h => h

theorem Kept.checkLaunch (hI : Kept rows E I) (n : Nat) : Keeps E I (checkLaunch n) := by
  intro s h
  rw [checkLaunch_run]
  split
  · split
    · exact h
    · exact hI.stop _ h
  · exact hI.stop _ h

/-- A command that goes on has a width in whole stripes and a height (R213). -/
theorem Kept.checkPrecond (hI : Kept rows E I) :
    Triple E I checkPrecond fun _ s => I s ∧ s.regs.width.toNat % 8 = 0 ∧ s.regs.height ≠ 0 := by
  intro s h
  rw [checkPrecond_run]
  split
  · exact hI.stop _ h
  · next hpre =>
    rw [not_or, not_not] at hpre
    exact ⟨h, hpre⟩

/-- Every command starts with its precondition and its launch test (R213, R61, R62). -/
theorem Kept.launch {Q : Nat → State → Prop} (hI : Kept rows E I) {len : State → Nat} {rest : State → Act Nat}
    (h : ∀ s, I s → s.regs.height ≠ 0 → Triple E I (rest s) Q) :
    Triple E I (do Machine.checkPrecond; let s ← get; Machine.checkLaunch (len s); rest s) Q := by
  refine hI.checkPrecond.bind fun _ => Triple.get_bind fun s ⟨hs, _, hheight⟩ => ?_
  exact ((hI.checkLaunch _).at hs).bind fun _ => h s hs hheight

/-! ### Bit Packer and Bit Unpacker -/

theorem Kept.packerWrite (hI : Kept rows E I) (v : Byte) (n : Nat) : Keeps E I (packerWrite v n) := by
  intro s h
  rw [packerWrite_run]
  split
  · split
    · exact hI.setBp _ h
    · exact hI.stop _ h
  · exact hI.stop _ h

theorem Kept.unpackerInit (hI : Kept rows E I) (start stop : Nat) : Keeps E I (unpackerInit start stop) :=
  Triple.update fun _ h => hI.setBu _ h

theorem Kept.unpackerFill (hI : Kept rows E I) : Keeps E I unpackerFill := by
  intro s h
  rw [unpackerFill_run]
  split
  · split
    · exact hI.setBu _ h
    · exact hI.stop _ h
  · exact h

theorem Kept.readNbits (hI : Kept rows E I) (n : Nat) : Keeps E I (readNbits n) := by
  refine Triple.ite (fun _ => hI.unpackerFill.bind fun _ => Triple.read_bind fun s _ => ?_) fun _ => hI.throw _
  refine Triple.ite (fun _ => hI.throw _) fun _ => ?_
  have htake : Keeps E I (modify fun s => s.setBu (s.bu.take n)) := Triple.update fun _ h => hI.setBu _ h
  exact htake.bind fun _ => Triple.read_bind fun s _ => Triple.pure fun _ h => h

/-! ### Stripe decoders -/

/-- A predicate, and `m` more pixels have a place in the stripe. -/
def Room (rows : Nat) (I : State → Prop) (m : Nat) (s : State) : Prop := I s ∧ (0 < m → s.dp.k + m ≤ 8 * rows)

theorem Kept.needPixel (hI : Kept rows E I) : Triple E I needPixel fun _ => Room rows I 1 := by
  intro s h
  rw [needPixel_run]
  split
  · next hk =>
    rw [hI.npix h] at hk
    exact ⟨h, fun _ => hk⟩
  · exact hI.stop _ h

/-- The pixel write leaves the datapath alone. -/
theorem Painting.put (hI : Painting rows E I) {k : Nat} (hk : k < 8 * rows ∨ k = 0) (c : Byte) (d : Datapath) :
    Triple E (fun s => I s ∧ s.dp = d) (put k c) fun _ s => I s ∧ s.dp = d := by
  rintro s ⟨h, hd⟩
  rw [put_run]
  split
  · exact ⟨h, hd⟩
  · rw [writeByte_run]
    split
    · next ha => exact ⟨hI.pixel k _ hk ha h, hd⟩
    · exact hI.stop _ h

theorem Painting.putNext (hI : Painting rows E I) (m : Nat) :
    Triple E (Room rows I (m + 1)) putNext fun _ => Room rows I m := by
  refine Triple.get_bind fun s ⟨h, hroom⟩ => ?_
  have hk : s.dp.k + (m + 1) ≤ 8 * rows := hroom m.succ_pos
  refine ((hI.put (.inl (by omega)) s.dp.color s.dp).at ⟨h, rfl⟩).bind fun _ => ?_
  refine Triple.update fun t ⟨ht, hd⟩ => ⟨hI.setDp _ ht, fun _ => ?_⟩
  rw [hd]
  show s.dp.k + 1 + m ≤ 8 * rows
  omega

/-- The three parts of every one-pixel code: the test, the new colour, the pixel. -/
theorem Painting.onePixel (hI : Painting rows E I) {f : Datapath → Datapath} (hf : ∀ d, (f d).k = d.k) :
    Keeps E I (do Machine.needPixel; Machine.setDp f; Machine.putNext) := by
  have hset : Triple E (Room rows I 1) (Machine.setDp f) fun _ => Room rows I 1 :=
    Triple.update fun s ⟨h, hroom⟩ => ⟨hI.setDp _ h, fun h1 => (hf s.dp).symm ▸ hroom h1⟩
  exact hI.needPixel.bind fun _ => hset.bind fun _ => (hI.putNext 0).weaken (fun _ h => h) fun _ _ h => h.1

theorem Painting.applyARep (hI : Painting rows E I) : Keeps E I applyARep :=
  hI.needPixel.bind fun _ => (hI.putNext 0).weaken (fun _ h => h) fun _ _ h => h.1

theorem Painting.applyBRep (hI : Painting rows E I) : Keeps E I applyBRep := hI.applyARep
theorem Painting.applyALit (hI : Painting rows E I) (v : Byte) : Keeps E I (applyALit v) := hI.onePixel fun _ => rfl
theorem Painting.applyADelta (hI : Painting rows E I) (d : Int) : Keeps E I (applyADelta d) := hI.onePixel fun _ => rfl
theorem Painting.applyBLit (hI : Painting rows E I) (v : Byte) : Keeps E I (applyBLit v) := hI.onePixel fun _ => rfl
theorem Painting.applyBStep (hI : Painting rows E I) : Keeps E I applyBStep := hI.onePixel fun _ => rfl
theorem Painting.applyBRev (hI : Painting rows E I) : Keeps E I applyBRev := hI.onePixel fun _ => rfl

theorem Painting.runPixels (hI : Painting rows E I) (m : Nat) :
    Triple E (Room rows I m) (runPixels m) fun _ => I := by
  induction m with
  | zero => exact Triple.pure fun _ h => h.1
  | succ m ih =>
    refine (hI.putNext m).bind fun _ => ?_
    have hrun : Keeps E (Room rows I m) (Machine.setDp fun d => { d with run := m }) :=
      Triple.update fun s ⟨h, hroom⟩ => ⟨hI.setDp _ h, hroom⟩
    exact hrun.bind fun _ => ih

theorem Painting.applyARun (hI : Painting rows E I) (n : Byte) : Keeps E I (applyARun n) := by
  refine Triple.ite (fun _ => hI.throw _) fun _ => Triple.get_bind fun s h => ?_
  have hroom : min n.toNat (s.npix - s.dp.k) > 0 → s.dp.k + min n.toNat (s.npix - s.dp.k) ≤ 8 * rows := by
    have := hI.npix h
    omega
  have hset : Triple E (fun t => t = s) (Machine.setDp fun d => { d with run := min n.toNat (s.npix - s.dp.k) })
      fun _ => Room rows I (min n.toNat (s.npix - s.dp.k)) :=
    Triple.update fun _ ht => by rw [ht]; exact ⟨hI.setDp _ h, hroom⟩
  exact hset.bind fun _ => hI.runPixels _

theorem Painting.decodeACode (hI : Painting rows E I) : Keeps E I decodeACode :=
  Triple.read_bind fun _ _ => Keeps.of_sim (Sim.walk_familyA _ (fun n => (hI.readNbits n).sim) hI.applyARep.sim
    (fun v => (hI.applyALit v).sim) (fun d => (hI.applyADelta d).sim) fun n => (hI.applyARun n).sim)

theorem Painting.decodeBCode (hI : Painting rows E I) : Keeps E I decodeBCode :=
  Triple.read_bind fun _ _ => Keeps.of_sim (Sim.walk_familyB _ (fun n => (hI.readNbits n).sim) hI.applyBRep.sim
    (fun v => (hI.applyBLit v).sim) hI.applyBStep.sim hI.applyBRev.sim)

/-- The first pixel has a place whatever the height is (log 13). -/
theorem Painting.decodeFirst (hI : Painting rows E I) : Keeps E I decodeFirst := by
  have hput (c : Byte) : Keeps E I (Machine.put 0 c) := fun s h =>
    (hI.put (.inr rfl) c s.dp).weaken (R := fun _ => I) (fun _ h => h) (fun _ _ hq => hq.1) ⟨h, rfl⟩
  exact (hI.readNbits 8).bind fun c => (hI.update _).bind fun _ => (hput c).bind fun _ => hI.update _

theorem Kept.beginStripe (hI : Kept rows E I) {st : Nat} (hst : ∀ s, I s → I (s.onStripe st)) (f : Family) (tr : Bool) :
    Keeps E I (beginStripe st f tr) :=
  Triple.update fun s h => hI.setDp _ (hst s h)

theorem Painting.decodeA (hI : Painting rows E I) {st : Nat} (hst : ∀ s, I s → I (s.onStripe st)) (f : Family)
    (tr : Bool) : Keeps E I (decodeA st f tr) :=
  (hI.beginStripe hst f tr).bind fun _ => hI.decodeFirst.bind fun _ => Triple.read_bind fun _ _ =>
    hI.decodeACode.loop _ _

theorem Painting.decodeB (hI : Painting rows E I) {st : Nat} (hst : ∀ s, I s → I (s.onStripe st)) (f : Family)
    (tr : Bool) : Keeps E I (decodeB st f tr) :=
  (hI.beginStripe hst f tr).bind fun _ => hI.decodeFirst.bind fun _ => Triple.read_bind fun _ _ =>
    hI.decodeBCode.loop _ _

/-- The stripe decoder that a type byte calls works on the stripe in `S` (R175). -/
theorem Painting.decodeFamily (hI : Painting rows E I) (hst : ∀ s t, I s → I t → I (t.onStripe s.sel.stripe)) (f : Family)
    (tr : Bool) : Keeps E I (decodeFamily f tr) := by
  refine Triple.read_bind fun s h => ?_
  have hst' : ∀ t, I t → I (t.onStripe s.sel.stripe) := fun t => hst s t h
  cases f
  · exact hI.decodeA hst' _ _
  · exact hI.decodeA hst' _ _
  · exact hI.decodeB hst' _ _
  · exact hI.decodeB hst' _ _

theorem Painting.dispatchType (hI : Painting rows E I) (hst : ∀ s t, I s → I t → I (t.onStripe s.sel.stripe)) (f : Family)
    (tcap : Bool) (shr : ShiftWidth) : Keeps E I (dispatchType f tcap shr) := by
  have htransp : Keeps E I (modify fun s => s.setSel { s.sel with hasTransp := s.sel.hasTransp || tcap }) :=
    Triple.update fun s h => hI.setSel _ (by rfl) h
  refine htransp.bind fun _ => Triple.read_bind fun s _ => ?_
  exact (hI.unpackerInit _ _).bind fun _ => (hI.update _).bind fun _ => hI.decodeFamily hst _ _

theorem Painting.fetchType (hI : Painting rows E I) : Keeps E I fetchType := by
  refine Triple.read_bind fun s _ => Triple.ite (fun _ => hI.throw _) fun _ => (hI.readLE 4 _).bind fun entry => ?_
  have hofs : Keeps E I (modify fun s => s.setSel { s.sel with ofs := entry - Config.smapOfsBias }) :=
    Triple.update fun s h => hI.setSel _ (by rfl) h
  refine hofs.bind fun _ => Triple.read_bind fun s _ => ?_
  exact Triple.ite (fun _ => hI.throw _) fun _ => hI.readByte _

/-! ### Mask runs -/

theorem Filling.writeRow (hI : Filling rows E I) {y : Nat} (hy : y < rows) (v : Byte) : Keeps E I (writeRow y v) := by
  intro s h
  rw [writeRow_run]
  split
  · next ha => exact hI.row y _ hy ha h
  · exact hI.stop _ h

theorem Filling.repeatRows (hI : Filling rows E I) (v : Byte) (n y : Nat) (hy : 0 < n → y + n ≤ rows) :
    Keeps E I (repeatRows v n y) := by
  induction n generalizing y with
  | zero => exact Triple.pure fun _ h => h
  | succ n ih =>
    have hend := hy n.succ_pos
    exact (hI.writeRow (by omega) v).bind fun _ => ih (y + 1) fun _ => by omega

theorem Filling.nextByte (hI : Filling rows E I) : Keeps E I nextByte := by
  intro s h
  rw [nextByte_run]
  split
  · exact hI.stop _ h
  split
  · exact hI.setMask _ h
  · exact hI.stop _ h

theorem Filling.literalRows (hI : Filling rows E I) (n y : Nat) (hy : 0 < n → y + n ≤ rows) :
    Keeps E I (literalRows n y) := by
  induction n generalizing y with
  | zero => exact Triple.pure fun _ h => h
  | succ n ih =>
    have hend := hy n.succ_pos
    exact hI.nextByte.bind fun v => (hI.writeRow (by omega) v).bind fun _ => ih (y + 1) fun _ => by omega

/-- A run is clipped to the rows left (R193). -/
theorem Kept.clippedRows (hI : Kept rows E I) {s : State} (h : I s) (n : BitVec 7) (hn : 0 < s.clippedRows n) :
    s.mask.y + s.clippedRows n ≤ rows := by
  rw [State.clippedRows, hI.height h] at hn ⊢
  omega

theorem Filling.applyMRep (hI : Filling rows E I) (n : BitVec 7) (v : Byte) : Keeps E I (applyMRep n v) := by
  refine Triple.ite (fun _ => hI.throw _) fun _ => Triple.read_bind fun s h => ?_
  exact (hI.repeatRows _ _ _ (hI.clippedRows h n)).bind fun _ => Triple.update fun _ h => hI.setMask _ h

theorem Filling.applyMLit (hI : Filling rows E I) (n : BitVec 7) : Keeps E I (applyMLit n) := by
  refine Triple.ite (fun _ => hI.throw _) fun _ => Triple.read_bind fun s h => ?_
  exact (hI.literalRows _ _ (hI.clippedRows h n)).bind fun _ => Triple.update fun _ h => hI.setMask _ h

theorem Kept.applyMReserved (hI : Kept rows E I) : Keeps E I applyMReserved := hI.throw _

theorem Filling.decodeMaskRun (hI : Filling rows E I) : Keeps E I decodeMaskRun :=
  Keeps.of_sim (Sim.walk_maskRun hI.nextByte.sim (fun n v => (hI.applyMRep n v).sim) (fun n => (hI.applyMLit n).sim)
    hI.applyMReserved.sim hI.applyMReserved.sim)

/-- The runs of a column whose stripe is set (R192). -/
theorem Filling.decodeColumn (hI : Filling rows E I) {st : Nat} (hst : ∀ s, I s → I (s.onStripe st)) (ofs : Nat) :
    Keeps E I (decodeColumn st ofs) := by
  refine (Keeps.setStripe hst).bind fun _ => Triple.read_bind fun s _ => ?_
  have hplace : Keeps E I (Machine.setMask fun m => { m with mptr := s.regs.blobBase.toNat + ofs, y := 0 }) :=
    Triple.update fun _ h => hI.setMask _ h
  exact hplace.bind fun _ => hI.decodeMaskRun.loop _ _

theorem Filling.decodeAbsent (hI : Filling rows E I) : Keeps E I decodeAbsent := by
  refine Triple.read_bind fun s h => Triple.ite (fun _ => Triple.pure fun _ h => h) fun _ => ?_
  exact hI.repeatRows _ _ _ fun _ => by rw [hI.height h]; omega

/-! ### Encoders -/

theorem Sizing.onStripe (hI : Sizing rows E I) (st : Nat) (s : State) (h : I s) : I (s.onStripe st) :=
  hI.setSel _ (by rfl) (by rfl) h

theorem Kept.scanWidth (hI : Kept rows E I) (n k : Nat) : Keeps E I (scanWidth n k) := by
  induction n generalizing k with
  | zero => exact Triple.pure fun _ h => h
  | succ n ih =>
    refine Triple.read_bind fun s _ => (hI.readByte _).bind fun v => (hI.update _).bind fun _ => ?_
    exact Triple.read_bind fun s _ => Triple.ite (fun _ => Triple.pure fun _ h => h) fun _ => ih (k + 1)

theorem Sizing.computeShr (hI : Sizing rows E I) (st : Nat) : Keeps E I (computeShr st) := by
  exact (Keeps.setStripe (hI.onStripe st)).bind fun _ => (hI.update _).bind fun _ =>
    Triple.read_bind fun s _ => hI.scanWidth _ _

theorem Sizing.encodeStripe (hI : Sizing rows E I) (st : Nat) (f : Family) (enc : ShiftWidth → Byte → List Byte → Enc) :
    Keeps E I (encodeStripe st f enc) := by
  refine (hI.beginStripe (hI.onStripe st) f false).bind fun _ => Triple.read_bind fun s _ => ?_
  refine (hI.readByte _).bind fun p0 => Triple.read_bind fun s _ => (hI.readPixels _ _ _).bind fun ps => ?_
  exact Triple.read_bind fun s _ => Triple.update fun s h => hI.setDp _ (hI.setBp _ h)

theorem Sizing.encodeFamily (hI : Sizing rows E I) (f : Family) (st : Nat) : Keeps E I (encodeFamily f st) := by
  cases f
  · exact hI.encodeStripe st .a _
  · exact hI.encodeStripe st .a6 _
  · exact hI.encodeStripe st .b _
  · exact hI.encodeStripe st .c _

theorem Sizing.encodeCandidates (hI : Sizing rows E I) (st : Nat) (fs : List Family) :
    Keeps E I (encodeCandidates st fs) := by
  induction fs with
  | nil => exact Triple.pure fun _ h => h
  | cons f fs ih =>
    have hset : Keeps E I (modify fun s => s.setSel { s.sel with cand := s.sel.cand.set f s.bp.wout }) :=
      Triple.update fun s h => hI.setSel _ (by rfl) (by rfl) h
    exact (hI.encodeFamily f st).bind fun _ => hset.bind fun _ => ih

/-- The offsets and the records of earlier columns stay (R194). -/
theorem MaskRegs.encodeColumn_results (m : MaskRegs) (col : List Byte) :
    (m.encodeColumn col).zofs = m.zofs ∧ (m.encodeColumn col).recs = m.recs := by
  rw [MaskRegs.encodeColumn_eq m m]
  exact ⟨rfl, rfl⟩

theorem Sizing.encodeColumn (hI : Sizing rows E I) (st : Nat) : Keeps E I (encodeColumn st) := by
  refine (Keeps.setStripe (hI.onStripe st)).bind fun _ => Triple.read_bind fun s _ => (hI.readColumn _ _).bind fun col => ?_
  refine Triple.update fun s h => ?_
  obtain ⟨hzofs, hrecs⟩ := s.mask.encodeColumn_results col
  exact hI.setMask _ hzofs hrecs h

end

end Sys2Proof.Machine

namespace Sys2Proof.Machine

/-! ## Memory while no command runs -/

/-- The host-visible registers and memory are those of another state. -/
def Untouched (s₀ s : State) : Prop := s.regs = s₀.regs ∧ s.mem = s₀.mem

section
variable {s₀ : State}

theorem Untouched.kept : Kept s₀.regs.height.toNat (fun _ => Untouched s₀) (Untouched s₀) where
  stop _ h := h
  height h := by rw [h.1]
  setDp _ h := h
  setBp _ h := h
  setBu _ h := h

theorem Untouched.unreached (hidle : ¬ s₀.Running) {s : State} (h : Untouched s₀ s) (a : Nat) : s.reaches a ≠ true := by
  intro ha
  have hbusy := ((State.reaches_iff s a).mp ha).1
  rw [h.1] at hbusy
  exact hidle hbusy

theorem Untouched.painting (hidle : ¬ s₀.Running) :
    Painting s₀.regs.height.toNat (fun _ => Untouched s₀) (Untouched s₀) where
  toKept := Untouched.kept
  setSel _ _ h := h
  pixel _ _ _ ha h := (h.unreached hidle _ ha).elim

theorem Untouched.filling (hidle : ¬ s₀.Running) :
    Filling s₀.regs.height.toNat (fun _ => Untouched s₀) (Untouched s₀) where
  toKept := Untouched.kept
  setMask _ h := h
  row _ _ _ ha h := (h.unreached hidle _ ha).elim

theorem Untouched.sizing : Sizing s₀.regs.height.toNat (fun _ => Untouched s₀) (Untouched s₀) where
  toKept := Untouched.kept
  setSel _ _ _ h := h
  setMask _ _ _ h := h

/-- An operation that touches nothing, or raises an error having touched nothing, leaves memory alone. -/
theorem Untouched.runUnit {body : Act Unit} (h : Keeps (fun _ => Untouched s₀) (Untouched s₀) body) {t : State}
    (ht : runUnit body s₀ = .next t) : t.mem = s₀.mem := by
  rcases h.runUnit ⟨rfl, rfl⟩ ht with hq | ⟨e, t', hq, rfl⟩
  · exact hq.2
  · exact hq.2

end

/-- While no command runs, what is not a command leaves memory alone (R50). -/
theorem exec_mem_of_idle {i : Instr} {s t : State} (hi : ¬ IsCommand i) (hidle : ¬ s.Running) (ht : exec i s = .next t) :
    t.mem = s.mem := by
  have hP := Untouched.painting hidle
  have hF := Untouched.filling hidle
  have hS := Untouched.sizing (s₀ := s)
  have hst (st : Nat) (u : State) (h : Untouched s u) : Untouched s (u.onStripe st) := h
  cases i with
  | encImage => exact (hi (.inl rfl)).elim
  | decImage => exact (hi (.inr (.inl rfl))).elim
  | encMask => exact (hi (.inr (.inr (.inl rfl)))).elim
  | decMask => exact (hi (.inr (.inr (.inr rfl)))).elim
  | bpInit | bpFlush => cases ht; rfl
  | bpWriteBit b => exact Untouched.runUnit (hP.packerWrite _ _) ht
  | bpWriteNbits v n => exact Untouched.runUnit (hP.packerWrite _ _) ht
  | bpWriteByte v => exact Untouched.runUnit (hP.packerWrite _ _) ht
  | buInit start stop => exact Untouched.runUnit (hP.unpackerInit _ _) ht
  | buFill => exact Untouched.runUnit hP.unpackerFill ht
  | buReadBit => exact Untouched.runUnit ((hP.readNbits 1).bind fun _ => Triple.pure fun _ h => h) ht
  | buReadNbits n => exact Untouched.runUnit ((hP.readNbits _).bind fun _ => Triple.pure fun _ h => h) ht
  | computeShr st => exact Untouched.runUnit (hS.computeShr _) ht
  | select st =>
    refine Untouched.runUnit ((hS.computeShr _).bind fun _ => (hS.encodeCandidates _ _).bind fun _ => ?_) ht
    exact Triple.update fun _ h => h
  | encMaskCol st => exact Untouched.runUnit (hS.encodeColumn _) ht
  | decMaskCol st ofs => exact Untouched.runUnit (hF.decodeColumn (hst _) _) ht
  | encA st => exact Untouched.runUnit (hS.encodeFamily .a _) ht
  | encA6 st => exact Untouched.runUnit (hS.encodeFamily .a6 _) ht
  | encB st => exact Untouched.runUnit (hS.encodeFamily .b _) ht
  | encC st => exact Untouched.runUnit (hS.encodeFamily .c _) ht
  | decA st | decA6 st | decAT st | decA6T st => exact Untouched.runUnit (hP.decodeA (hst _) _ _) ht
  | decB st | decC st | decBT st | decCT st => exact Untouched.runUnit (hP.decodeB (hst _) _ _) ht
  | aRep => exact Untouched.runUnit hP.applyARep ht
  | aLit v => exact Untouched.runUnit (hP.applyALit v) ht
  | aDelta d => exact Untouched.runUnit (hP.applyADelta d) ht
  | aRun n => exact Untouched.runUnit (hP.applyARun _) ht
  | bRep => exact Untouched.runUnit hP.applyBRep ht
  | bLit v => exact Untouched.runUnit (hP.applyBLit v) ht
  | bStep => exact Untouched.runUnit hP.applyBStep ht
  | bRev => exact Untouched.runUnit hP.applyBRev ht
  | mRep n v => exact Untouched.runUnit (hF.applyMRep _ _) ht
  | mLit n => exact Untouched.runUnit (hF.applyMLit _) ht
  | mRsvLit0 | mRsvRep0 => exact Untouched.runUnit hP.applyMReserved ht
  -- The forty type bytes (R74).
  | _ => exact Untouched.runUnit (hP.dispatchType (fun _ _ _ h => h) _ _ _) ht

theorem fetchSelect_error {s : State} {f : Format} {lines : List Byte} {e : DecodeError}
    (h : decode f s.dp.shr lines = .error e) : fetchSelect s f lines = .settled (.refused .neverDriven) := by
  rw [fetchSelect, h]

/-- Settles O10. -/
theorem idleAndRefusedRequests : Obligations.IdleAndRefusedRequests := by
  intro s rest off v lines e
  refine ⟨fun hbus => step_settled (by rw [fetch, hbus]), fun i t => exec_mem_of_idle, fun hoff hbus => ?_, fun hbus => ?_⟩
  · have halign : ¬ alignedOffset off = true := mt (alignedOffset_iff off).mp hoff
    rcases hbus with hbus | hbus <;> refine step_settled ?_ <;> rw [fetch_cons hbus, fetchRequest]
    · rw [fetchWrite, if_neg halign]
    · rw [fetchRead, if_neg halign]
  · rcases hbus with ⟨hbus, herr⟩ | ⟨hbus, herr⟩ | ⟨hbus, herr⟩ <;> refine step_settled ?_ <;>
      rw [fetch_cons hbus, fetchRequest] <;> exact fetchSelect_error herr

/-! ## Where bytes lie -/

/-- Settles O22: byte by byte, each within the space. -/
theorem littleEndianReads : Obligations.LittleEndianReads := by
  intro s a hrun
  have hbyte {b : Nat} (hb : b < Config.addrSpace) : (readByte b).run s = .ok (s.mem.read b) s := by
    rw [readByte_run, if_pos ((State.reaches_iff s b).mpr ⟨hrun, hb⟩)]
  have hnext {n b v : Nat} (hb : b < Config.addrSpace) (hrest : (readLE n (b + 1)).run s = .ok v s) :
      (readLE (n + 1) b).run s = .ok ((s.mem.read b).toNat + 256 * v) s := by
    rw [readLE]
    simp only [EStateM.run_bind, hbyte hb, hrest, EStateM.run_pure]
  have hzero (b : Nat) : (readLE 0 b).run s = .ok 0 s := rfl
  refine ⟨fun ha => ?_, fun ha => ?_⟩
  · rw [hnext (by omega) (hnext (by omega) (hzero _)), Nat.mul_zero, Nat.add_zero]
  · rw [hnext (by omega) (hnext (by omega) (hnext (by omega) (hnext (by omega) (hzero _)))),
      show a + 1 + 1 + 1 = a + 3 from rfl, show a + 1 + 1 = a + 2 from rfl]
    congr 1
    omega

/-- Settles O23. -/
theorem pixelPlace : Obligations.PixelPlace := by
  intro s k
  refine ⟨fun f hf => ?_, rfl⟩
  rcases hf with rfl | rfl | rfl <;> rfl

/-! ## One-pixel codes that stop -/

/-- The datapath with the colour and the direction that a one-pixel code gives it. -/
def Datapath.coded (i : Instr) (d : Datapath) : Datapath :=
  { d with color := (nextColor d.color d.inc i).1, inc := (nextColor d.color d.inc i).2 }

/-- The one-pixel codes (R136 to R138, R146 to R149). -/
def OnePixel (i : Instr) : Prop := i ∈ [.aRep, .bRep, .bStep, .bRev] ∨ ∃ v d, i = .aLit v ∨ i = .aDelta d ∨ i = .bLit v

/-- Every one-pixel code tests for a pixel, gives the datapath its next colour and puts it. -/
theorem exec_onePixel {i : Instr} (hi : OnePixel i) (s : State) :
    exec i s = runUnit (do needPixel; setDp (Datapath.coded i); putNext) s := by
  have hrepeat (i : Instr) (hc : ∀ d, Datapath.coded i d = d) :
      runUnit (do needPixel; putNext) s = runUnit (do needPixel; setDp (Datapath.coded i); putNext) s := by
    rw [show Datapath.coded i = id from funext hc]
    rfl
  rcases hi with hi | ⟨v, d, rfl | rfl | rfl⟩
  · simp only [List.mem_cons, List.not_mem_nil, or_false] at hi
    rcases hi with rfl | rfl | rfl | rfl
    · exact hrepeat _ fun _ => rfl
    · exact hrepeat _ fun _ => rfl
    · rfl
    · rfl
  · rfl
  · rfl
  · rfl

/-- A one-pixel code with a pixel left that is not skipped ends as its byte's write does. -/
theorem exec_onePixel_write {i : Instr} (hi : OnePixel i) {s : State} {e : Stop} (hk : s.dp.k < s.npix)
    (hput : ¬ s.Skips (nextColor s.dp.color s.dp.inc i).1) (hreach : ¬ s.reaches s.nextAddr = true)
    (hstop : s.unreached = e) : exec i s = stopped e (s.setDp (s.dp.coded i)) := by
  have hneed : needPixel.run s = .ok () s := by rw [needPixel_run, if_pos hk]
  have hset : (setDp (Datapath.coded i)).run s = .ok () (s.setDp (s.dp.coded i)) := setDp_run _ _
  have hwrite : (put s.dp.k (s.dp.coded i).color).run (s.setDp (s.dp.coded i)) =
      .error e (s.setDp (s.dp.coded i)) := by
    refine (put_run _ _ _).trans ((if_neg hput).trans ?_)
    rw [writeByte_run, ← hstop]
    exact if_neg hreach
  have hnext : putNext.run (s.setDp (s.dp.coded i)) = .error e (s.setDp (s.dp.coded i)) := by
    rw [putNext]
    simp only [EStateM.run_bind, EStateM.run_get]
    rw [show (s.setDp (s.dp.coded i)).dp.k = s.dp.k from rfl, State.setDp_dp, hwrite]
  rw [exec_onePixel hi, runUnit]
  simp only [EStateM.run_bind, hneed, hset, hnext]

/-- Settles O33. -/
theorem onePixelCodeStops : Obligations.OnePixelCodeStops := by
  intro s i hi
  refine ⟨fun hk => ?_, fun hk hput => ⟨fun hidle => ?_, fun hrun haddr => ?_⟩⟩
  · have hneed : needPixel.run s = .error (.refuse .noPixelLeft) s := by rw [needPixel_run, if_neg (not_lt.mpr hk)]
    rw [exec_onePixel hi, runUnit]
    simp only [EStateM.run_bind, hneed, stopped]
  · refine exec_onePixel_write hi (e := .refuse .noCommandRunning) hk hput ?_ (by rw [State.unreached, if_neg hidle])
    exact fun hreach => hidle ((State.reaches_iff _ _).mp hreach).1
  · refine exec_onePixel_write hi (e := .fault .addressOutOfRange) hk hput ?_ (by rw [State.unreached, if_pos hrun])
    exact fun hreach => absurd ((State.reaches_iff _ _).mp hreach).2 (not_lt.mpr haddr)

/-! ## Launches that are refused -/

/-- The pseudocode of a command (R156, R170, R194, R196). -/
def commandBody : Instr → Act Nat
  | .encImage => encodeImage
  | .decImage => decodeImage
  | .encMask => encodeMask
  | _ => decodeMask

theorem exec_command {i : Instr} (hi : IsCommand i) (s : State) : exec i s = runCommand (commandBody i) s := by
  rcases hi with rfl | rfl | rfl | rfl <;> rfl

/-- A command whose precondition holds stops where its launch test does. -/
theorem launch_stop {len : State → Nat} {rest : State → Act Nat} {s : State} {e : Stop}
    (hwidth : s.regs.width.toNat % 8 = 0) (hheight : s.regs.height ≠ 0)
    (hlaunch : (checkLaunch (len s)).run s = .error e s) :
    (do checkPrecond; let s ← get; checkLaunch (len s); rest s : Act Nat).run s = .error e s := by
  have hpre : checkPrecond.run s = .ok () s := by
    rw [checkPrecond_run, if_neg (not_or.mpr ⟨not_not.mpr hwidth, hheight⟩)]
  simp only [EStateM.run_bind, hpre, EStateM.run_get, hlaunch]

theorem commandBody_stop {i : Instr} (hi : IsCommand i) {s : State} {e : Stop} (hwidth : s.regs.width.toNat % 8 = 0)
    (hheight : s.regs.height ≠ 0) (hlaunch : (checkLaunch (s.rowLen i)).run s = .error e s) :
    (commandBody i).run s = .error e s := by
  rcases hi with rfl | rfl | rfl | rfl <;> exact launch_stop hwidth hheight hlaunch

/-- A startable command whose launch test refuses is refused. -/
theorem exec_command_refused {i : Instr} (hi : IsCommand i) {s : State} {r : Refusal} (hs : s.Startable)
    (hlaunch : (checkLaunch (s.rowLen i)).run (startCommand s) = .error (.refuse r) (startCommand s)) :
    exec i s = .refused r := by
  obtain ⟨hbusy, hwidth, hheight⟩ := hs
  have hrow : (startCommand s).rowLen i = s.rowLen i := by rcases hi with rfl | rfl | rfl | rfl <;> rfl
  rw [← hrow] at hlaunch
  rw [exec_command hi, runCommand, hbusy, commandBody_stop hi (s := startCommand s) hwidth hheight hlaunch]
  rfl

/-- Settles O51. -/
theorem launchPremises : Obligations.LaunchPremises := by
  intro i s hi hs
  refine ⟨fun hfit => exec_command_refused hi hs ?_, fun hfit hdisjoint => exec_command_refused hi hs ?_⟩ <;>
    rw [checkLaunch_run]
  · rw [if_neg (show ¬ (startCommand s).addressesFit _ = true from Bool.eq_false_iff.mp hfit)]
  · rw [if_pos (show (startCommand s).addressesFit _ = true from hfit),
      if_neg (show ¬ (startCommand s).regionsDisjoint _ = true from Bool.eq_false_iff.mp hdisjoint)]

end Sys2Proof.Machine

namespace Sys2Proof.Machine

/-! ## Footprints

What a command may change, against the state it starts in: the result registers, and the bytes at some addresses. -/

/-- The argument registers and `LOGLEVEL`, with the result registers at one fixed value. -/
def Regs.arguments (r : Regs) : Regs := r.finished .ok false 0 0 0

/-- The argument registers are those of another state, and so is every byte but those at the addresses in `W`. -/
structure Framed (W : Nat → Prop) (s₀ s : State) : Prop where
  arguments : s.regs.arguments = s₀.regs.arguments
  bytes : ∀ a, ¬ W a → s.mem.read a = s₀.mem.read a

section
variable {W : Nat → Prop} {s₀ s : State}

theorem Framed.refl (W : Nat → Prop) (s : State) : Framed W s s := ⟨rfl, fun _ _ => rfl⟩

/-- The start of a command, its completion, an error and a warning change result registers only (R31, R212, R216, R218). -/
theorem Framed.startCommand (h : Framed W s₀ s) : Framed W s₀ (startCommand s) := ⟨h.arguments, h.bytes⟩
theorem Framed.completeOk (h : Framed W s₀ s) (n : Nat) : Framed W s₀ (completeOk n s) := ⟨h.arguments, h.bytes⟩
theorem Framed.raiseError (h : Framed W s₀ s) (e : Err) : Framed W s₀ (raiseError e s) := ⟨h.arguments, h.bytes⟩
theorem Framed.warn (h : Framed W s₀ s) : Framed W s₀ (warn s) := ⟨h.arguments, h.bytes⟩

theorem Framed.write (h : Framed W s₀ s) {a : Nat} (ha : W a) (v : Byte) : Framed W s₀ (s.setMem (s.mem.write a v)) :=
  ⟨h.arguments, fun b hb =>
    (Memory.read_write_other _ _ fun hab : b = a => hb (hab ▸ ha)).trans (h.bytes b hb)⟩

theorem Framed.pixBase (h : Framed W s₀ s) : s.regs.pixBase = s₀.regs.pixBase := (congrArg Regs.pixBase h.arguments :)
theorem Framed.stride (h : Framed W s₀ s) : s.regs.stride = s₀.regs.stride := (congrArg Regs.stride h.arguments :)
theorem Framed.width (h : Framed W s₀ s) : s.regs.width = s₀.regs.width := (congrArg Regs.width h.arguments :)
theorem Framed.height (h : Framed W s₀ s) : s.regs.height = s₀.regs.height := (congrArg Regs.height h.arguments :)
theorem Framed.blobBase (h : Framed W s₀ s) : s.regs.blobBase = s₀.regs.blobBase := (congrArg Regs.blobBase h.arguments :)
theorem Framed.blobSize (h : Framed W s₀ s) : s.regs.blobSize = s₀.regs.blobSize := (congrArg Regs.blobSize h.arguments :)

theorem Framed.stripes (h : Framed W s₀ s) : s.stripes = s₀.stripes := by rw [State.stripes, State.stripes, h.width]

theorem Framed.kept : Kept s₀.regs.height.toNat (fun _ => Framed W s₀) (Framed W s₀) where
  stop _ h := h
  height h := by rw [h.height]
  setDp _ h := ⟨h.arguments, h.bytes⟩
  setBp _ h := ⟨h.arguments, h.bytes⟩
  setBu _ h := ⟨h.arguments, h.bytes⟩

end

/-! ### Decodes -/

/-- The addresses of the picture or plane of a command (R51). -/
def State.Cell (s : State) (i : Instr) (a : Nat) : Prop := ∃ y < s.regs.height.toNat, ∃ x < s.rowLen i, a = s.cellAddr y x

/-- A decode has changed its own picture or plane at most, and works on one of its stripes. -/
def DecodingStripe (i : Instr) (s₀ s : State) : Prop := Framed (s₀.Cell i) s₀ s ∧ s.sel.stripe < s₀.stripes

theorem pixelPos_bounds (f : Family) {height k : Nat} (h : k < 8 * height) :
    (pixelPos f height k).1 < height ∧ (pixelPos f height k).2 < 8 := by
  cases f
  case c => exact ⟨Nat.mod_lt _ (by omega), Nat.div_lt_of_lt_mul (by rwa [Nat.mul_comm])⟩
  all_goals exact ⟨Nat.div_lt_of_lt_mul h, Nat.mod_lt _ (by omega)⟩

section
variable {s₀ s : State} {i : Instr}

theorem DecodingStripe.kept (i : Instr) (s₀ : State) :
    Kept s₀.regs.height.toNat (fun _ => Framed (s₀.Cell i) s₀) (DecodingStripe i s₀) where
  stop _ h := h.1
  height h := Framed.kept.height h.1
  setDp _ h := ⟨Framed.kept.setDp _ h.1, h.2⟩
  setBp _ h := ⟨Framed.kept.setBp _ h.1, h.2⟩
  setBu _ h := ⟨Framed.kept.setBu _ h.1, h.2⟩

theorem DecodingStripe.onStripe (h : DecodingStripe i s₀ s) {st : Nat} (hst : st < s₀.stripes) :
    DecodingStripe i s₀ (s.onStripe st) :=
  ⟨⟨h.1.arguments, h.1.bytes⟩, hst⟩

/-- A pixel of one of the picture's stripes is a byte of the picture (R51 (a)). -/
theorem DecodingStripe.pixel_cell (hheight : s₀.regs.height ≠ 0) (h : DecodingStripe .decImage s₀ s) (f : Family)
    {k : Nat} (hk : k < 8 * s₀.regs.height.toNat ∨ k = 0) : s₀.Cell .decImage (s.pixelAddr f k) := by
  obtain ⟨hframe, hst⟩ := h
  have hpos : 0 < s₀.regs.height.toNat := Nat.pos_of_ne_zero fun h0 => hheight (BitVec.eq_of_toNat_eq h0)
  obtain ⟨hrow, hcol⟩ := pixelPos_bounds f (show k < 8 * s₀.regs.height.toNat by omega)
  rw [State.stripes] at hst
  refine ⟨_, hrow, 8 * s.sel.stripe + (pixelPos f s₀.regs.height.toNat k).2, ?_, ?_⟩
  · show _ < s₀.regs.width.toNat
    omega
  · rw [State.pixelAddr, State.stripeAddr, State.cellAddr, hframe.pixBase, hframe.stride, hframe.height, Nat.add_assoc]

theorem DecodingStripe.painting (hheight : s₀.regs.height ≠ 0) :
    Painting s₀.regs.height.toNat (fun _ => Framed (s₀.Cell .decImage) s₀) (DecodingStripe .decImage s₀) where
  toKept := DecodingStripe.kept _ _
  setSel _ hx h := ⟨⟨h.1.arguments, h.1.bytes⟩, hx.trans_lt h.2⟩
  pixel _ v hk _ h := ⟨h.1.write (h.pixel_cell hheight _ hk) v, h.2⟩

/-- A row of one of the plane's columns is a byte of the plane (R51 (b)). -/
theorem DecodingStripe.filling :
    Filling s₀.regs.height.toNat (fun _ => Framed (s₀.Cell .decMask) s₀) (DecodingStripe .decMask s₀) where
  toKept := DecodingStripe.kept _ _
  setMask _ h := ⟨⟨h.1.arguments, h.1.bytes⟩, h.2⟩
  row {s} y v hy _ h := by
    refine ⟨h.1.write ⟨y, hy, s.sel.stripe, h.2, ?_⟩ v, h.2⟩
    rw [State.columnAddr, State.cellAddr, h.1.pixBase, h.1.stride]

/-- Each stripe of a decode starts with `S`. -/
theorem DecodingStripe.begin {st : Nat} (hst : st < s₀.stripes) :
    Triple (fun _ => Framed (s₀.Cell i) s₀) (Framed (s₀.Cell i) s₀) (modify fun s => s.setSel { s.sel with stripe := st })
      fun _ => DecodingStripe i s₀ :=
  Triple.update fun _ h => ⟨⟨h.arguments, h.bytes⟩, hst⟩

theorem decodeRecord_framed (hheight : s₀.regs.height ≠ 0) {st : Nat} (hst : st < s₀.stripes) :
    Keeps (fun _ => Framed (s₀.Cell .decImage) s₀) (Framed (s₀.Cell .decImage) s₀) (decodeRecord st) := by
  have hI := DecodingStripe.painting hheight
  refine (DecodingStripe.begin hst).bind fun _ => hI.fetchType.bind fun b => ?_
  rcases decodeType b with _ | ⟨f, tcap, shr⟩
  · exact Triple.update fun _ h => h.1.warn
  · exact (hI.dispatchType (fun _ _ hs ht => ht.onStripe hs.2) f tcap shr).weaken (fun _ h => h) fun _ _ h => h.1

theorem decodeMaskStripe_framed {st : Nat} (hst : st < s₀.stripes) :
    Keeps (fun _ => Framed (s₀.Cell .decMask) s₀) (Framed (s₀.Cell .decMask) s₀) (decodeMaskStripe st) := by
  have hI := DecodingStripe.filling (s₀ := s₀)
  have hcolumn (ofs : Nat) : Keeps (fun _ => Framed (s₀.Cell .decMask) s₀) (DecodingStripe .decMask s₀)
      (if ofs = 0 then decodeAbsent else decodeColumn st ofs) :=
    Triple.ite (fun _ => hI.decodeAbsent) fun _ => hI.decodeColumn (fun _ h => h.onStripe hst) ofs
  refine (DecodingStripe.begin hst).bind fun _ => Triple.read_bind fun _ _ => Triple.ite (fun _ => hI.throw _) fun _ => ?_
  exact (hI.readLE 2 _).bind fun ofs => (hcolumn ofs).weaken (fun _ h => h) fun _ _ h => h.1

theorem decodeImage_framed :
    Keeps (fun _ => Framed (s₀.Cell .decImage) s₀) (Framed (s₀.Cell .decImage) s₀) decodeImage := by
  refine Framed.kept.launch fun s h hheight => ?_
  rw [h.height] at hheight
  refine (Triple.each (J := fun _ => Framed (s₀.Cell .decImage) s₀) _ _ fun st _ hst => ?_).bind fun _ =>
    Triple.pure fun _ ht => ht
  exact decodeRecord_framed hheight (by rw [← h.stripes]; omega)

theorem decodeMask_framed :
    Keeps (fun _ => Framed (s₀.Cell .decMask) s₀) (Framed (s₀.Cell .decMask) s₀) decodeMask := by
  refine Framed.kept.launch fun s h _ => ?_
  refine (Triple.each (J := fun _ => Framed (s₀.Cell .decMask) s₀) _ _ fun st _ hst => ?_).bind fun _ =>
    Triple.pure fun _ ht => ht
  exact decodeMaskStripe_framed (by rw [← h.stripes]; omega)

/-- A command that keeps a frame, however it ends. -/
theorem Framed.runCommand {W : Nat → Prop} {body : Act Nat} (h : Keeps (fun _ => Framed W s₀) (Framed W s₀) body)
    {t : State} (ht : runCommand body s₀ = .next t) : Framed W s₀ t := by
  rcases h.runCommand (Framed.refl W s₀).startCommand ht with ⟨_, rfl⟩ | ⟨n, t', hend, rfl⟩ | ⟨e, t', hend, rfl⟩
  · exact Framed.refl W t
  · exact hend.completeOk n
  · exact hend.raiseError e

end

/-- Settles O59. -/
theorem decodeFootprint : Obligations.DecodeFootprint := by
  intro i s t hi _ ht
  have hframe : Framed (s.Cell i) s t := by
    rcases hi with rfl | rfl
    · exact Framed.runCommand decodeImage_framed ht
    · exact Framed.runCommand decodeMask_framed ht
  refine ⟨fun a ha => hframe.bytes a fun ⟨y, hy, x, hx, hcell⟩ => ha y hy x hx hcell, hframe.arguments⟩

end Sys2Proof.Machine

namespace Sys2Proof.Machine

/-! ### Encodes -/

/-- Memory and the argument registers are those of another state. -/
structure Unwritten (s₀ s : State) : Prop where
  mem : s.mem = s₀.mem
  arguments : s.regs.arguments = s₀.regs.arguments

/-- The blob of `n` bytes (R40). -/
def State.Blob (s : State) (n a : Nat) : Prop := s.regs.blobBase.toNat ≤ a ∧ a < s.regs.blobBase.toNat + n

/-- An encode that raises an error has written nothing (R215). -/
def EncodeStopped (s₀ : State) (e : Stop) (s : State) : Prop := ∀ err, e = .raise err → Unwritten s₀ s

/-- An encode that completes has written its blob at most (R63). -/
def EncodeDone (s₀ : State) (n : Nat) (s : State) : Prop := n ≤ s₀.regs.blobSize.toNat ∧ Framed (s₀.Blob n) s₀ s

/-- The results of earlier stripes are those of another state too. -/
structure SameResults (s₁ s : State) : Prop extends Unwritten s₁ s where
  best : s.sel.best = s₁.sel.best
  total : s.sel.total = s₁.sel.total
  zofs : s.mask.zofs = s₁.mask.zofs
  recs : s.mask.recs = s₁.mask.recs

section
variable {s₀ s₁ s : State}

theorem Unwritten.refl (s : State) : Unwritten s s := ⟨rfl, rfl⟩

theorem Unwritten.trans (h : Unwritten s₀ s₁) (h' : Unwritten s₁ s) : Unwritten s₀ s :=
  ⟨h'.mem.trans h.mem, h'.arguments.trans h.arguments⟩

theorem Unwritten.framed (h : Unwritten s₀ s) (W : Nat → Prop) : Framed W s₀ s :=
  ⟨h.arguments, fun a _ => by rw [h.mem]⟩

theorem Unwritten.stopped (h : Unwritten s₀ s) (e : Stop) : EncodeStopped s₀ e s := fun _ _ => h

theorem Unwritten.kept : Kept s₀.regs.height.toNat (EncodeStopped s₀) (Unwritten s₀) where
  stop e h := h.stopped e
  height h := by rw [(h.framed fun _ => True).height]
  setDp _ h := ⟨h.mem, h.arguments⟩
  setBp _ h := ⟨h.mem, h.arguments⟩
  setBu _ h := ⟨h.mem, h.arguments⟩

theorem SameResults.refl (s : State) : SameResults s s := ⟨Unwritten.refl s, rfl, rfl, rfl, rfl⟩

/-- Updates of `TOTAL` write nothing. -/
theorem Unwritten.setSel (h : Unwritten s₀ s) (x : Selector) : Unwritten s₀ (s.setSel x) := ⟨h.mem, h.arguments⟩

/-- Working on a stripe leaves the results of earlier stripes alone. -/
theorem SameResults.sizing (h₁ : Unwritten s₀ s₁) :
    Sizing s₁.regs.height.toNat (EncodeStopped s₀) (SameResults s₁) where
  stop e h := (h₁.trans h.toUnwritten).stopped e
  height h := Unwritten.kept.height h.toUnwritten
  setDp _ h := ⟨⟨h.mem, h.arguments⟩, h.best, h.total, h.zofs, h.recs⟩
  setBp _ h := ⟨⟨h.mem, h.arguments⟩, h.best, h.total, h.zofs, h.recs⟩
  setBu _ h := ⟨⟨h.mem, h.arguments⟩, h.best, h.total, h.zofs, h.recs⟩
  setSel _ hbest htotal h := ⟨⟨h.mem, h.arguments⟩, hbest.trans h.best, htotal.trans h.total, h.zofs, h.recs⟩
  setMask _ hzofs hrecs h := ⟨⟨h.mem, h.arguments⟩, h.best, h.total, hzofs.trans h.zofs, hrecs.trans h.recs⟩

/-! #### Writing the blob -/

theorem State.unreached_stopped (s₀ s t : State) : EncodeStopped s₀ s.unreached t := by
  intro err h
  rw [State.unreached] at h
  split at h <;> cases h

theorem bytesLE_length (n v : Nat) : (bytesLE n v).length = n := by
  induction n generalizing v with
  | zero => rfl
  | succ n ih => rw [bytesLE, List.length_cons, ih]

/-- The blob of `n` bytes is being written: nothing else has changed, and `TOTAL` and the write position are as given. -/
structure Writing (s₀ : State) (n pos : Nat) (s : State) : Prop where
  framed : Framed (s₀.Blob n) s₀ s
  total : s.sel.total = n
  wpos : s.sel.wpos = pos

variable {n pos : Nat}

theorem Writing.writeByte {ofs : Nat} (h : ofs < n) (v : Byte) :
    Keeps (EncodeStopped s₀) (Writing s₀ n pos) (writeByte (s₀.regs.blobBase.toNat + ofs) v) :=
  Triple.writeByte (fun s _ => s₀.unreached_stopped s s) fun _ hs _ =>
    ⟨hs.framed.write ⟨by omega, by omega⟩ v, hs.total, hs.wpos⟩

/-- Bytes of the blob, from the one at `ofs` on. -/
theorem Writing.writeBytes (bs : List Byte) (ofs : Nat) (h : ofs + bs.length ≤ n) :
    Keeps (EncodeStopped s₀) (Writing s₀ n pos) (writeBytes (s₀.regs.blobBase.toNat + ofs) bs) := by
  induction bs generalizing ofs with
  | nil => exact Triple.pure fun _ hs => hs
  | cons b bs ih =>
    rw [List.length_cons] at h
    exact (Writing.writeByte (by omega) b).bind fun _ => ih (ofs + 1) (by omega)

theorem Writing.writeOffsets (bs : List Best) (i ofs : Nat) (h : 4 * (i + bs.length) ≤ n) :
    Keeps (EncodeStopped s₀) (Writing s₀ n pos) (writeOffsets i ofs bs) := by
  induction bs generalizing i ofs with
  | nil => exact Triple.pure fun _ hs => hs
  | cons b bs ih =>
    rw [List.length_cons] at h
    refine Triple.read_bind fun s hs => ?_
    rw [hs.framed.blobBase]
    exact (Writing.writeBytes _ _ (by rw [bytesLE_length]; omega)).bind fun _ => ih _ _ (by omega)

/-- The records fill the blob exactly, so that the accounting test of R158 never fires. -/
theorem Writing.writeRecords (bs : List Best) (h : pos + (bs.map Best.len).sum = n) :
    Triple (EncodeStopped s₀) (Writing s₀ n pos) (writeRecords bs) fun _ => Writing s₀ n n := by
  induction bs generalizing pos with
  | nil => exact (show pos = n from h) ▸ Triple.pure fun _ hs => hs
  | cons b bs ih =>
    rw [List.map_cons, List.sum_cons, Best.len] at h
    refine Triple.read_bind fun s hs => ?_
    rw [hs.framed.blobBase, hs.wpos, Nat.add_assoc]
    refine (Writing.writeByte (by omega) _).bind fun _ => (Writing.writeBytes _ _ (by omega)).bind fun _ => ?_
    have hmove : Triple (EncodeStopped s₀) (Writing s₀ n pos)
        (modify fun s => s.setSel { s.sel with wpos := s.sel.wpos + b.len }) fun _ => Writing s₀ n (pos + b.len) :=
      Triple.update fun s hs => ⟨⟨hs.framed.arguments, hs.framed.bytes⟩, hs.total, (congrArg (· + b.len) hs.wpos :)⟩
    refine hmove.bind fun _ => Triple.read_bind fun s hs => Triple.ite (fun hlt => ?_) fun _ => ih ?_
    · rw [hs.total, hs.wpos, Best.len] at hlt
      omega
    · rw [Best.len]
      omega

/-! #### Image encodes -/

/-- Pass 1 of R156 has sized the stripes below `i`. -/
structure SizedStripes (s₀ : State) (i : Nat) (s : State) : Prop where
  unwritten : Unwritten s₀ s
  length : s.sel.best.length = i
  stripes : ∀ b ∈ s.sel.best, b.stripe < i
  total : s.sel.total = 4 * s₀.stripes + (s.sel.best.map Best.len).sum

/-- A new stripe's result stands last (log 29). -/
theorem putBest_new {bs : List Best} {b : Best} (h : ∀ x ∈ bs, x.stripe < b.stripe) : putBest bs b = bs ++ [b] := by
  rw [putBest, List.filter_eq_self.mpr fun x hx => decide_eq_true (Nat.ne_of_lt (h x hx))]

/-- `SELECT` has put the result of stripe `st` among those before it (R152). -/
structure SelectedAfter (s₁ : State) (st : Nat) (s : State) : Prop where
  unwritten : Unwritten s₁ s
  best : s.sel.best = putBest s₁.sel.best (s.selected st)
  total : s.sel.total = s₁.sel.total

theorem selectStripe_selected (h₁ : Unwritten s₀ s₁) (st : Nat) :
    Triple (EncodeStopped s₀) (SameResults s₁) (selectStripe st) fun _ => SelectedAfter s₁ st := by
  have hI := SameResults.sizing h₁
  refine (hI.computeShr st).bind fun _ => (hI.encodeCandidates st _).bind fun _ => Triple.update fun s h => ?_
  exact ⟨h.toUnwritten.setSel _, (congrArg (putBest · (s.selected st)) h.best :), h.total⟩

/-- A stripe's result and its length are added to those of the stripes before it. -/
theorem SelectedAfter.sized {i : Nat} (h₁ : SizedStripes s₀ i s₁) (h : SelectedAfter s₁ i s) :
    SizedStripes s₀ (i + 1) (s.setSel { s.sel with total := s.sel.total + (s.selected i).len }) := by
  have hnew : s.sel.best = s₁.sel.best ++ [s.selected i] := h.best.trans (putBest_new h₁.stripes)
  refine ⟨h₁.unwritten.trans (h.unwritten.setSel _), ?_, ?_, ?_⟩
  · rw [State.setSel_sel, hnew, List.length_append, h₁.length, List.length_singleton]
  · rw [State.setSel_sel, hnew]
    intro b hb
    rcases List.mem_append.mp hb with hold | hlast
    · exact (h₁.stripes b hold).trans i.lt_succ_self
    · rw [List.mem_singleton.mp hlast]
      exact i.lt_succ_self
  · rw [State.setSel_sel, hnew, h.total, h₁.total, List.map_append, List.sum_append, List.map_singleton,
      List.sum_singleton, Nat.add_assoc]

theorem sizeStripe_sized (i : Nat) :
    Triple (EncodeStopped s₀) (SizedStripes s₀ i) (sizeStripe i) fun _ => SizedStripes s₀ (i + 1) := by
  intro s₁ h₁
  have hsize : Triple (EncodeStopped s₀) (SameResults s₁) (sizeStripe i) fun _ => SizedStripes s₀ (i + 1) :=
    (selectStripe_selected h₁.unwritten i).bind fun _ => Triple.update fun _ h => h.sized h₁
  exact hsize (SameResults.refl s₁)

theorem encodeImage_done : Triple (EncodeStopped s₀) (Unwritten s₀) encodeImage (EncodeDone s₀) := by
  refine Unwritten.kept.launch fun s h _ => ?_
  have hstripes : s.stripes = s₀.stripes := (h.framed fun _ => True).stripes
  have hclear : Triple (EncodeStopped s₀) (Unwritten s₀)
      (modify fun s => s.setSel { s.sel with best := [], total := 4 * s.stripes }) fun _ => SizedStripes s₀ 0 :=
    Triple.update fun t ht => ⟨⟨ht.mem, ht.arguments⟩, rfl, fun _ hb => (List.not_mem_nil hb).elim,
      congrArg (4 * ·) (ht.framed fun _ => True).stripes⟩
  refine hclear.bind fun _ => (Triple.each _ _ fun i _ _ => sizeStripe_sized i).bind fun _ => ?_
  rw [Nat.zero_add, hstripes]
  refine Triple.get_bind fun u hu => Triple.ite (fun _ => ?_) fun hfits => ?_
  · exact Triple.throw fun t ht => ht ▸ hu.unwritten.stopped _
  have hframe := hu.unwritten.framed (s₀.Blob u.sel.total)
  have hsize : 4 * (0 + u.sel.best.length) ≤ u.sel.total := by rw [hu.length, hu.total]; omega
  have hstart : Writing s₀ u.sel.total u.sel.wpos u := ⟨hframe, rfl, rfl⟩
  refine ((Writing.writeOffsets _ 0 _ hsize).at hstart).bind fun _ => ?_
  have hpos : Triple (EncodeStopped s₀) (Writing s₀ u.sel.total u.sel.wpos)
      (modify fun s => s.setSel { s.sel with wpos := 4 * s.stripes }) fun _ => Writing s₀ u.sel.total (4 * s₀.stripes) :=
    Triple.update fun t ht => ⟨⟨ht.framed.arguments, ht.framed.bytes⟩, ht.total, congrArg (4 * ·) ht.framed.stripes⟩
  refine hpos.bind fun _ => (Writing.writeRecords _ hu.total.symm).bind fun _ => Triple.pure fun t ht => ?_
  refine ⟨?_, ht.framed⟩
  rw [← hframe.blobSize]
  exact not_lt.mp hfits

/-! #### Mask encodes -/

/-- R194's first loop has sized the columns below `i`. -/
structure SizedColumns (s₀ : State) (i : Nat) (s : State) : Prop where
  unwritten : Unwritten s₀ s
  length : s.mask.zofs.length = i
  total : s.sel.total = 2 * s₀.stripes + s.mask.recs.flatten.length

/-- A column's offset and record stand after those before it (R194); `TOTAL` does not count the record yet. -/
structure RecordedAfter (s₁ : State) (s : State) : Prop where
  unwritten : Unwritten s₁ s
  total : s.sel.total = s₁.sel.total
  length : s.mask.zofs.length = s₁.mask.zofs.length + 1
  recs : s.mask.recs = s₁.mask.recs ++ [s.mask.out]

theorem SameResults.recorded (h : SameResults s₁ s) (z : Nat) :
    RecordedAfter s₁ (s.setMask { s.mask with zofs := s.mask.zofs ++ [z], recs := s.mask.recs ++ [s.mask.out] }) := by
  refine ⟨⟨h.mem, h.arguments⟩, h.total, ?_, ?_⟩
  · rw [State.setMask_mask, h.zofs, List.length_append, List.length_singleton]
  · rw [State.setMask_mask, h.recs]

theorem RecordedAfter.sized {i : Nat} (h₁ : SizedColumns s₀ i s₁) (h : RecordedAfter s₁ s) :
    SizedColumns s₀ (i + 1) (s.setSel { s.sel with total := s.sel.total + s.mask.out.length }) := by
  refine ⟨h₁.unwritten.trans (h.unwritten.setSel _), ?_, ?_⟩
  · rw [State.setSel_mask, h.length, h₁.length]
  · rw [State.setSel_sel, State.setSel_mask, h.total, h.recs, h₁.total, List.flatten_append, List.flatten_singleton,
      List.length_append, Nat.add_assoc]

/-- An absent column has an offset of 0 and no record (R194). -/
theorem SameResults.sized_absent {i : Nat} (h₁ : SizedColumns s₀ i s₁) (h : SameResults s₁ s) :
    SizedColumns s₀ (i + 1) (s.setMask { s.mask with zofs := s.mask.zofs ++ [0], recs := s.mask.recs ++ [[]] }) := by
  refine ⟨h₁.unwritten.trans ⟨h.mem, h.arguments⟩, ?_, ?_⟩
  · rw [State.setMask_mask, h.zofs, List.length_append, h₁.length, List.length_singleton]
  · rw [State.setMask_sel, State.setMask_mask, h.total, h.recs, h₁.total, List.flatten_append, List.flatten_singleton,
      List.append_nil]

theorem sizeColumn_sized (i : Nat) :
    Triple (EncodeStopped s₀) (SizedColumns s₀ i) (sizeColumn i) fun _ => SizedColumns s₀ (i + 1) := by
  intro s₁ h₁
  have hI := SameResults.sizing h₁.unwritten
  have hsize : Triple (EncodeStopped s₀) (SameResults s₁) (sizeColumn i) fun _ => SizedColumns s₀ (i + 1) := by
    refine (Keeps.setStripe (hI.onStripe i)).bind fun _ => Triple.read_bind fun _ _ => ?_
    refine (hI.readColumn _ _).bind fun col => ?_
    refine Triple.ite (fun _ => Triple.update fun s h => h.sized_absent h₁) fun _ => Triple.read_bind fun _ _ => ?_
    refine Triple.ite (fun _ => hI.throw _) fun _ => (hI.encodeColumn i).bind fun _ => ?_
    have hentry (z : Nat) : Triple (EncodeStopped s₀) (SameResults s₁)
        (setMask fun m => { m with zofs := m.zofs ++ [z], recs := m.recs ++ [m.out] }) fun _ => RecordedAfter s₁ :=
      Triple.update fun s h => h.recorded z
    exact (hentry _).bind fun _ => Triple.update fun s h => h.sized h₁
  exact hsize (SameResults.refl s₁)

theorem encodeMask_done : Triple (EncodeStopped s₀) (Unwritten s₀) encodeMask (EncodeDone s₀) := by
  refine Unwritten.kept.launch fun s h _ => ?_
  have hstripes : s.stripes = s₀.stripes := (h.framed fun _ => True).stripes
  have htotal : Triple (EncodeStopped s₀) (Unwritten s₀) (modify fun s => s.setSel { s.sel with total := 2 * s.stripes })
      fun _ t => Unwritten s₀ t ∧ t.sel.total = 2 * s₀.stripes :=
    Triple.update fun t ht => ⟨⟨ht.mem, ht.arguments⟩, congrArg (2 * ·) (ht.framed fun _ => True).stripes⟩
  have hclear : Triple (EncodeStopped s₀) (fun t => Unwritten s₀ t ∧ t.sel.total = 2 * s₀.stripes)
      (setMask fun m => { m with zofs := [], recs := [] }) fun _ => SizedColumns s₀ 0 :=
    Triple.update fun t ht => ⟨⟨ht.1.mem, ht.1.arguments⟩, rfl, ht.2⟩
  refine htotal.bind fun _ => hclear.bind fun _ => (Triple.each _ _ fun i _ _ => sizeColumn_sized i).bind fun _ => ?_
  rw [Nat.zero_add, hstripes]
  refine Triple.get_bind fun u hu => Triple.ite (fun _ => ?_) fun hfits => ?_
  · exact Triple.throw fun t ht => ht ▸ hu.unwritten.stopped _
  have hframe := hu.unwritten.framed (s₀.Blob u.sel.total)
  have hoffsets : (u.mask.zofs.flatMap fun z => bytesLE 2 z).length = 2 * s₀.stripes := by
    simp only [List.length_flatMap, bytesLE_length, List.map_const', List.sum_replicate_nat, hu.length, Nat.mul_comm]
  rw [hframe.blobBase, hframe.stripes]
  have hstart : Writing s₀ u.sel.total u.sel.wpos u := ⟨hframe, rfl, rfl⟩
  have hsize : 0 + (u.mask.zofs.flatMap fun z => bytesLE 2 z).length ≤ u.sel.total := by
    rw [hoffsets, hu.total]
    omega
  refine ((Writing.writeBytes _ 0 hsize).at hstart).bind fun _ => ?_
  refine (Writing.writeBytes _ _ hu.total.ge).bind fun _ => Triple.pure fun t ht => ⟨?_, ht.framed⟩
  rw [← hframe.blobSize]
  exact not_lt.mp hfits

end

/-- Settles O60. -/
theorem encodeFootprint : Obligations.EncodeFootprint := by
  intro i s t hi hidle ht
  have hend : (∃ n t', EncodeDone s n t' ∧ t = completeOk n t') ∨ ∃ e t', Unwritten s t' ∧ t = raiseError e t' := by
    have hstart : Unwritten s (startCommand s) := ⟨rfl, rfl⟩
    have hcases : (s.regs.status.busy = true ∧ t = s) ∨ (∃ n t', EncodeDone s n t' ∧ t = completeOk n t') ∨
        ∃ e t', EncodeStopped s (.raise e) t' ∧ t = raiseError e t' := by
      rcases hi with rfl | rfl
      · exact encodeImage_done.runCommand hstart ht
      · exact encodeMask_done.runCommand hstart ht
    rcases hcases with ⟨hbusy, _⟩ | hdone | ⟨e, t', hstop, hraise⟩
    · rw [hidle] at hbusy
      cases hbusy
    · exact .inl hdone
    · exact .inr ⟨e, t', hstop e rfl, hraise⟩
  rcases hend with ⟨n, t', ⟨hfits, hframe⟩, rfl⟩ | ⟨e, t', hun, rfl⟩
  · have hlen : (completeOk n t').regs.outLen.toNat = n := by
      show (BitVec.ofNat Config.aw n).toNat = n
      have hsize := s.regs.blobSize.isLt
      rw [BitVec.toNat_ofNat, Nat.mod_eq_of_lt (by omega)]
    rw [hlen]
    refine ⟨fun a ha => hframe.bytes a fun ⟨hlow, hhigh⟩ => by omega, fun herr => (herr rfl).elim, hframe.arguments⟩
  · exact ⟨fun a _ => congrArg (·.read a) hun.mem, fun _ => ⟨hun.mem, rfl⟩, hun.arguments⟩

end Sys2Proof.Machine

/-! ## Reading back what the encoder wrote

The decoder's readers, each on the bits that the encoder writes for the value it should answer (R70 to R74, R80 to R92). -/

namespace Sys2Proof.Machine

/-- A reader takes exactly these bits off the front of any string, and answers this value. -/
def Reads {α : Type} (x : BitReader α) (bits : List Bool) (a : α) : Prop := ∀ more, x (bits ++ more) = .ok (a, more)

section
variable {α β : Type} {x : BitReader α} {f : α → BitReader β} {a : α} {b : β} {bits bits' : List Bool}

theorem Reads.pure (a : α) : Reads (Pure.pure a) [] a := fun _ => rfl

theorem Reads.bind (hx : Reads x bits a) (hf : Reads (f a) bits' b) : Reads (x >>= f) (bits ++ bits') b := by
  intro more
  rw [List.append_assoc, BitReader.bind_ok (hx _), hf more]

/-- A last read, whose value is passed on. -/
theorem Reads.map (hx : Reads x bits a) (g : α → β) : Reads (x >>= fun v => Pure.pure (g v)) bits (g a) := by
  rw [← List.append_nil bits]
  exact hx.bind (Reads.pure (g a))

theorem Reads.takeNat {n v : Nat} (hv : v < 2 ^ n) : Reads (takeNat n) (bitsOf n v) v := by
  intro more
  rw [Sys2Proof.takeNat, if_neg (by rw [List.length_append, bitsOf_length]; omega), List.take_left' (bitsOf_length n v),
    List.drop_left' (bitsOf_length n v), natOfBits_bitsOf, Nat.mod_eq_of_lt hv]

theorem Reads.takeBits {n v : Nat} (hv : v < 2 ^ n) : Reads (takeBits n) (bitsOf n v) (BitVec.ofNat 8 v) :=
  (Reads.takeNat hv).map (BitVec.ofNat 8)

theorem Reads.byte (v : Byte) : Reads (Sys2Proof.takeBits 8) (bitsOf 8 v.toNat) v := by
  have h := Reads.takeBits v.isLt
  rwa [BitVec.ofNat_toNat, BitVec.setWidth_eq] at h

/-- A literal of `shr` bits is its own zero extension (R89). -/
theorem Reads.literal {n : Nat} {v : Byte} (hv : v.toNat < 2 ^ n) : Reads (Sys2Proof.takeBits n) (bitsOf n v.toNat) v := by
  have h := Reads.takeBits hv
  rwa [BitVec.ofNat_toNat, BitVec.setWidth_eq] at h

theorem Reads.bit (b : Bool) : Reads (Sys2Proof.takeBits 1) [b] (if b then 1 else 0) := by
  cases b
  · exact Reads.takeBits (n := 1) (v := 0) (by decide)
  · exact Reads.takeBits (n := 1) (v := 1) (by decide)

theorem Reads.zero_bind {f : Byte → BitReader β} (hf : Reads (f 0) bits b) :
    Reads (Sys2Proof.takeBits 1 >>= f) (false :: bits) b :=
  (Reads.bit false).bind hf

theorem Reads.one_bind {f : Byte → BitReader β} (hf : Reads (f 1) bits b) :
    Reads (Sys2Proof.takeBits 1 >>= f) (true :: bits) b :=
  (Reads.bit true).bind hf

/-- A select or a command: a byte written by its number. -/
theorem Reads.select_bind {f : Byte → BitReader β} {n : Nat} (hn : n < 256) (hf : Reads (f (BitVec.ofNat 8 n)) bits b) :
    Reads (Sys2Proof.takeBits 8 >>= f) (bitsOf 8 n ++ bits) b :=
  (Reads.takeBits hn).bind hf

theorem Reads.operand (f : Format) {w : Nat} (v : BitVec w) : Reads (takeOperand f w) (operandBits v) v := by
  have hwidth : v.toNat < 2 ^ (8 * lineBytes w) :=
    v.isLt.trans_le (Nat.pow_le_pow_right Nat.two_pos (by rw [lineBytes]; omega))
  have hread : Reads (takeOperand f w) (operandBits v ++ []) v := (Reads.takeNat hwidth).bind (by
    rw [if_pos v.isLt, BitVec.ofNat_toNat, BitVec.setWidth_eq]
    exact Reads.pure v)
  rwa [List.append_nil] at hread

end

/-! ### One format at a time -/

theorem readCommand_encodeBits (shr : ShiftWidth) {i : Instr} (h : i.format = .cmd) :
    Reads readCommand (encodeBits shr i) i := by
  cases i with
  | encImage | decImage | encMask | decMask => exact Reads.select_bind (bits := []) (by decide) (Reads.pure _)
  | _ => cases h

theorem readPackerOp_encodeBits {shr : ShiftWidth} {i : Instr} (h : i.format = .bpop) :
    Reads readPackerOp (encodeBits shr i) i := by
  cases i with
  | bpInit | bpFlush => exact Reads.select_bind (bits := []) (by decide) (Reads.pure _)
  | bpWriteBit b =>
    refine Reads.select_bind (by decide) ?_
    have hb : Reads (takeNat 8) (bitsOf 8 b.toNat) b.toNat := Reads.takeNat (by cases b <;> decide)
    have hbit : decide (b.toNat % 2 = 1) = b := by cases b <;> rfl
    have hread := hb.map fun v => Instr.bpWriteBit (decide (v % 2 = 1))
    rwa [hbit] at hread
  | bpWriteNbits v n =>
    rw [encodeBits, List.append_assoc]
    exact Reads.select_bind (by decide) ((Reads.byte v).bind ((Reads.operand .bpop n).map (Instr.bpWriteNbits v)))
  | bpWriteByte v => exact Reads.select_bind (by decide) ((Reads.byte v).map Instr.bpWriteByte)
  | _ => cases h

theorem readUnpackerOp_encodeBits {shr : ShiftWidth} {i : Instr} (h : i.format = .buop) :
    Reads readUnpackerOp (encodeBits shr i) i := by
  cases i with
  | buFill | buReadBit => exact Reads.select_bind (bits := []) (by decide) (Reads.pure _)
  | buInit start stop =>
    rw [encodeBits, List.append_assoc]
    exact Reads.select_bind (by decide)
      ((Reads.operand .buop start).bind ((Reads.operand .buop stop).map (Instr.buInit start)))
  | buReadNbits n => exact Reads.select_bind (by decide) ((Reads.operand .buop n).map Instr.buReadNbits)
  | _ => cases h

theorem readUnitOp_encodeBits {shr : ShiftWidth} {i : Instr} (h : i.format = .uop) :
    Reads readUnitOp (encodeBits shr i) i := by
  cases i with
  | decMaskCol s ofs =>
    rw [encodeBits, List.append_assoc]
    exact Reads.select_bind (by decide) ((Reads.operand .uop s).bind ((Reads.operand .uop ofs).map (Instr.decMaskCol s)))
  | computeShr s | select s | encMaskCol s | encA s | encA6 s | encB s | encC s | decA s | decA6 s | decB s | decC s
  | decAT s | decA6T s | decBT s | decCT s =>
    exact Reads.select_bind (by decide) ((Reads.operand .uop s).map _)
  | _ => cases h

/-- A byte of the table of R74 reads as the instruction of its family, capability and width. -/
theorem Reads.typeByte {n : Nat} {i : Instr} (hn : n < 256)
    (h : (decodeType (BitVec.ofNat 8 n)).map (fun p => typeInstr p.1 p.2.1 p.2.2) = some i) :
    Reads readType (bitsOf 8 n) i := by
  obtain ⟨⟨f, tcap, shr⟩, hd, rfl⟩ := Option.map_eq_some_iff.mp h
  rw [← List.append_nil (bitsOf 8 n)]
  refine Reads.select_bind hn ?_
  rw [hd]
  exact Reads.pure _

theorem readType_encodeBits (shr : ShiftWidth) {i : Instr} (h : i.format = .type) :
    Reads readType (encodeBits shr i) i := by
  cases i with
  | typeC_4 | typeC_5 | typeC_6 | typeC_7 | typeC_8 | typeB_4 | typeB_5 | typeB_6 | typeB_7 | typeB_8 | typeCT_4 |
  typeCT_5 | typeCT_6 | typeCT_7 | typeCT_8 | typeBT_4 | typeBT_5 | typeBT_6 | typeBT_7 | typeBT_8 | typeA6_4 |
  typeA6_5 | typeA6_6 | typeA6_7 | typeA6_8 | typeA6T_4 | typeA6T_5 | typeA6T_6 | typeA6T_7 | typeA6T_8 | typeA_4 |
  typeA_5 | typeA_6 | typeA_7 | typeA_8 | typeAT_4 | typeAT_5 | typeAT_6 | typeAT_7 | typeAT_8 =>
    exact Reads.typeByte (by decide) rfl
  | _ => cases h

/-- The field of a delta in -4..3 spells it (R82). -/
theorem deltaOfField_fieldOfDelta {d : Int} (hd : -4 ≤ d ∧ d ≤ 3) :
    fieldOfDelta Config.deltaCoding d < 2 ^ 3 ∧
      deltaOfField Config.deltaCoding (BitVec.ofNat 8 (fieldOfDelta Config.deltaCoding d)).toNat = d := by
  have hfield : fieldOfDelta Config.deltaCoding d = (d + 4).toNat := rfl
  have hdelta (f : Nat) : deltaOfField Config.deltaCoding f = (f : Int) - 4 := rfl
  rw [hfield, hdelta, BitVec.toNat_ofNat]
  omega

/-- The two bits and the field that `A.DELTA` and `A.RUN` begin with (R82, R83). -/
theorem Reads.delta_bind {shr : ShiftWidth} {cases : ACases (BitReader Instr)} {d : Int} {bits : List Bool} {i : Instr}
    (hd : -4 ≤ d ∧ d ≤ 3)
    (h : Reads (if d ≠ 0 then cases.delta d else Sys2Proof.takeBits 8 >>= cases.run) bits i) :
    Reads (walkA Sys2Proof.takeBits shr cases) (deltaBits d ++ bits) i := by
  obtain ⟨hlt, hspell⟩ := deltaOfField_fieldOfDelta hd
  refine Reads.one_bind (Reads.one_bind ((Reads.takeBits hlt).bind ?_))
  rw [hspell]
  exact h

theorem readACode_encodeBits {shr : ShiftWidth} {i : Instr} (h : i.format = .acode)
    (hi : i.wf shr = true ∨ i = .aRun 0) : Reads (readACode shr) (encodeBits shr i) i := by
  cases i with
  | aRep => exact Reads.zero_bind (Reads.pure _)
  | aLit v =>
    have hv : v.toNat < 2 ^ shr.toNat := by simpa [Instr.wf] using hi
    exact Reads.one_bind (Reads.zero_bind ((Reads.literal hv).map Instr.aLit))
  | aDelta d =>
    have hd : -4 ≤ d ∧ d ≤ 3 ∧ d ≠ 0 := by simpa [Instr.wf] using hi
    rw [encodeBits, ← List.append_nil (deltaBits d)]
    refine Reads.delta_bind ⟨hd.1, hd.2.1⟩ ?_
    rw [if_pos hd.2.2]
    exact Reads.pure _
  | aRun n => exact Reads.delta_bind (d := 0) (by decide) ((Reads.byte n).map Instr.aRun)
  | _ => cases h

theorem readBCode_encodeBits {shr : ShiftWidth} {i : Instr} (h : i.format = .bcode) (hi : i.wf shr = true) :
    Reads (readBCode shr) (encodeBits shr i) i := by
  cases i with
  | bRep => exact Reads.zero_bind (Reads.pure _)
  | bLit v => exact Reads.one_bind (Reads.zero_bind ((Reads.literal (of_decide_eq_true hi)).map Instr.bLit))
  | bStep => exact Reads.one_bind (Reads.one_bind (Reads.zero_bind (Reads.pure _)))
  | bRev => exact Reads.one_bind (Reads.one_bind (Reads.one_bind (Reads.pure _)))
  | _ => cases h

/-- A mask header byte: the form bit above the count (R90, R91). -/
def maskHeader (rep : Bool) (n : BitVec 7) : Byte := BitVec.ofBool rep ++ n

theorem maskHeader_toNat (rep : Bool) (n : BitVec 7) : (maskHeader rep n).toNat = n.toNat + 2 ^ 7 * rep.toNat := by
  rw [maskHeader, toNat_append_eq, BitVec.toNat_ofBool, Nat.mul_comm, Nat.add_comm]

theorem maskHeader_bits (rep : Bool) (n : BitVec 7) : bitsOf 7 n.toNat ++ [rep] = bitsOf 8 (maskHeader rep n).toNat := by
  rw [maskHeader_toNat, bitsOf_parts 1 _ n.isLt]
  cases rep <;> rfl

theorem maskHeader_count (rep : Bool) (n : BitVec 7) : (maskHeader rep n).setWidth 7 = n := by
  apply BitVec.eq_of_toNat_eq
  rw [BitVec.toNat_setWidth, maskHeader_toNat, Nat.add_mul_mod_self_left, Nat.mod_eq_of_lt n.isLt]

theorem maskHeader_form (rep : Bool) (n : BitVec 7) : maskHeader rep n &&& 0x80 = if rep then 0x80 else 0 := by
  apply BitVec.eq_of_toNat_eq
  show (maskHeader rep n).toNat &&& 2 ^ 7 = _
  rw [Nat.and_two_pow, maskHeader, BitVec.testBit_toNat, BitVec.getLsbD_append]
  cases rep <;> simp

/-- A header whose count is not 0 is neither of the reserved ones (R92). -/
theorem maskHeader_ne {n : BitVec 7} (hn : n ≠ 0) (rep : Bool) : maskHeader rep n ≠ 0x00 ∧ maskHeader rep n ≠ 0x80 := by
  refine ⟨fun h => hn ?_, fun h => hn ?_⟩ <;> rw [← maskHeader_count rep n, h] <;> rfl

/-- After a header that is not reserved, its form and its count are read off it. -/
theorem Reads.maskHeader_bind {cases : MCases (BitReader Instr)} {n : BitVec 7} (hn : n ≠ 0) {rep : Bool} {bits : List Bool}
    {i : Instr} (h : Reads (if rep then Sys2Proof.takeBits 8 >>= cases.rep n else cases.lit n) bits i) :
    Reads (walkM (Sys2Proof.takeBits 8) cases) (bitsOf 7 n.toNat ++ [rep] ++ bits) i := by
  obtain ⟨h0, h80⟩ := maskHeader_ne hn rep
  rw [maskHeader_bits]
  refine (Reads.byte _).bind ?_
  rw [if_neg h0, if_neg h80, maskHeader_form, maskHeader_count]
  cases rep <;> exact h

theorem readMaskRun_encodeBits {shr : ShiftWidth} {i : Instr} (h : i.format = .mrun) (hi : i.wf shr = true) :
    Reads readMaskRun (encodeBits shr i) i := by
  have hcount {n : BitVec 7} (hn : 1 ≤ n.toNat) : n ≠ 0 := by
    rintro rfl
    exact absurd hn (by decide)
  cases i with
  | mRsvLit0 | mRsvRep0 => exact Reads.select_bind (bits := []) (by decide) (Reads.pure _)
  | mLit n =>
    rw [encodeBits, ← List.append_nil (_ ++ [false])]
    exact Reads.maskHeader_bind (hcount (of_decide_eq_true hi)) (Reads.pure _)
  | mRep n v =>
    exact Reads.maskHeader_bind (hcount (of_decide_eq_true hi)) ((Reads.byte v).map (Instr.mRep n))
  | _ => cases h

/-! ### All formats -/

/-- What an instruction is encoded to is cut off exactly; besides the well-formed instructions this holds of the reserved
`A.RUN 0` (R94). -/
theorem decodeBits_encodeBits {shr : ShiftWidth} {i : Instr} (hi : i.wf shr = true ∨ i = .aRun 0) (more : List Bool) :
    decodeBits i.format shr (encodeBits shr i ++ more) = .ok (i, more) := by
  have hwf (h : i.format ≠ .acode) : i.wf shr = true := hi.resolve_right fun hrun => h (hrun ▸ rfl)
  cases hf : i.format with
  | cmd => exact readCommand_encodeBits shr hf more
  | bpop => exact readPackerOp_encodeBits hf more
  | buop => exact readUnpackerOp_encodeBits hf more
  | uop => exact readUnitOp_encodeBits hf more
  | type => exact readType_encodeBits shr hf more
  | acode => exact readACode_encodeBits hf hi more
  | bcode => exact readBCode_encodeBits hf (hwf (by rw [hf]; decide)) more
  | mrun => exact readMaskRun_encodeBits hf (hwf (by rw [hf]; decide)) more

/-- Settles O2. -/
theorem decodeCutsInstruction : Obligations.DecodeCutsInstruction :=
  fun _ _ more hi => decodeBits_encodeBits (.inl hi) more

/-- A short chunk is padded with zero bits (R79). -/
theorem bitsOf_natOfBits (bits : List Bool) (n : Nat) :
    bitsOf (bits.length + n) (natOfBits bits) = bits ++ List.replicate n false := by
  induction bits with
  | nil =>
    rw [List.length_nil, Nat.zero_add, natOfBits, List.nil_append]
    induction n with
    | zero => rfl
    | succ n ih => rw [bitsOf, ih]; rfl
  | cons b bits ih =>
    have hbit : decide ((b.toNat + 2 * natOfBits bits) % 2 = 1) = b := by cases b <;> simp
    have hrest : (b.toNat + 2 * natOfBits bits) / 2 = natOfBits bits := by have := Bool.toNat_lt b; omega
    rw [List.length_cons, Nat.add_right_comm, bitsOf, natOfBits, hbit, hrest, ih, List.cons_append]

theorem streamBits_packChunks {n : Nat} {bits : List Bool} (h : bits.length ≤ 8 * n) :
    ∃ pad, streamBits (packChunks n bits) = bits ++ pad := by
  induction n generalizing bits with
  | zero => exact ⟨[], by rw [List.eq_nil_of_length_eq_zero (Nat.le_zero.mp h)]; rfl⟩
  | succ n ih =>
    obtain ⟨pad, hpad⟩ := ih (bits := bits.drop 8) (by rw [List.length_drop]; omega)
    have hlen : (bits.take 8).length ≤ 8 := List.length_take_le 8 bits
    have hchunk := bitsOf_natOfBits (bits.take 8) (8 - (bits.take 8).length)
    rw [Nat.add_sub_cancel' hlen] at hchunk
    rw [packChunks, streamBits_cons, BitVec.toNat_ofNat, bitsOf_mod, hchunk, hpad]
    rcases Nat.le_total 8 bits.length with h8 | h8
    · rw [List.length_take, Nat.min_eq_left h8]
      exact ⟨pad, by rw [Nat.sub_self, List.replicate_zero, List.append_nil, ← List.append_assoc, List.take_append_drop]⟩
    · rw [List.drop_of_length_le h8, List.take_of_length_le h8]
      exact ⟨_, by rw [List.nil_append, List.append_assoc]⟩

/-- A stream's bytes carry its bits, then the pad (R79). -/
theorem streamBits_packBits (bits : List Bool) : ∃ pad, streamBits (packBits bits) = bits ++ pad :=
  streamBits_packChunks (by omega)

/-- Settles O1: the pad is what follows the instruction's bits. -/
theorem decodeOfEncode : Obligations.DecodeOfEncode := by
  intro shr i hi
  obtain ⟨pad, hpad⟩ := streamBits_packBits (encodeBits shr i)
  rw [decode, encode, hpad, decodeBits_encodeBits (.inl hi)]

/-! ## Stream codes cover the bit strings -/

theorem exists_bitsOf_append {n : Nat} {bits : List Bool} (h : n ≤ bits.length) :
    ∃ v more, v < 2 ^ n ∧ bits = bitsOf n v ++ more := by
  have htake : bitsOf n (natOfBits (bits.take n)) = bits.take n := by
    have := bitsOf_natOfBits (bits.take n) 0
    rwa [List.length_take, Nat.min_eq_left h, List.replicate_zero, List.append_nil] at this
  refine ⟨natOfBits (bits.take n) % 2 ^ n, bits.drop n, Nat.mod_lt _ (Nat.two_pow_pos n), ?_⟩
  rw [bitsOf_mod, htake, List.take_append_drop]

theorem exists_byte_append {n : Nat} {bits : List Bool} (hn : n ≤ 8) (h : n ≤ bits.length) :
    ∃ (v : Byte) (more : List Bool), v.toNat < 2 ^ n ∧ bits = bitsOf n v.toNat ++ more := by
  obtain ⟨v, more, hv, rfl⟩ := exists_bitsOf_append h
  have hbyte : (BitVec.ofNat 8 v).toNat = v := by
    rw [BitVec.toNat_ofNat, Nat.mod_eq_of_lt (hv.trans_le (Nat.pow_le_pow_right Nat.two_pos hn))]
  exact ⟨BitVec.ofNat 8 v, more, by rwa [hbyte], by rw [hbyte]⟩

/-- R88's walk down the tree of Family A. -/
theorem exists_acode (shr : ShiftWidth) {bits : List Bool} (h : 13 ≤ bits.length) :
    ∃ i more, i.format = .acode ∧ (i.wf shr = true ∨ i = .aRun 0) ∧ bits = encodeBits shr i ++ more := by
  obtain ⟨_, hshr⟩ := ShiftWidth.toNat_bounds shr
  match bits, h with
  | false :: rest, _ => exact ⟨.aRep, rest, rfl, .inl rfl, rfl⟩
  | true :: false :: rest, h =>
    obtain ⟨v, more, hv, rfl⟩ := exists_byte_append hshr (bits := rest) (by simp only [List.length_cons] at h; omega)
    exact ⟨.aLit v, more, rfl, .inl (decide_eq_true hv), rfl⟩
  | true :: true :: rest, h =>
    obtain ⟨f, rest', hf, rfl⟩ := exists_bitsOf_append (n := 3) (bits := rest) (by simp only [List.length_cons] at h; omega)
    have hfield : bitsOf 3 f = bitsOf 3 (fieldOfDelta Config.deltaCoding ((f : Int) - 4)) := by
      show _ = bitsOf 3 ((f : Int) - 4 + 4).toNat
      rw [Int.sub_add_cancel, Int.toNat_natCast]
    by_cases hzero : f = 4
    · subst hzero
      obtain ⟨n, more, _, rfl⟩ := exists_byte_append (n := 8) le_rfl (bits := rest')
        (by simp only [List.length_cons, List.length_append, bitsOf_length] at h; omega)
      refine ⟨.aRun n, more, rfl, ?_, rfl⟩
      by_cases hn : n = 0
      · exact .inr (by rw [hn])
      · exact .inl (decide_eq_true (Nat.one_le_iff_ne_zero.mpr fun h0 => hn (BitVec.eq_of_toNat_eq h0)))
    · refine ⟨.aDelta ((f : Int) - 4), rest', rfl, .inl (decide_eq_true ?_), ?_⟩
      · omega
      · rw [hfield]
        rfl

/-- R88's walk down the tree of Families B and C. -/
theorem exists_bcode (shr : ShiftWidth) {bits : List Bool} (h : 13 ≤ bits.length) :
    ∃ i more, i.format = .bcode ∧ i.wf shr = true ∧ bits = encodeBits shr i ++ more := by
  obtain ⟨_, hshr⟩ := ShiftWidth.toNat_bounds shr
  match bits, h with
  | false :: rest, _ => exact ⟨.bRep, rest, rfl, rfl, rfl⟩
  | true :: false :: rest, h =>
    obtain ⟨v, more, hv, rfl⟩ := exists_byte_append hshr (bits := rest) (by simp only [List.length_cons] at h; omega)
    exact ⟨.bLit v, more, rfl, decide_eq_true hv, rfl⟩
  | true :: true :: false :: rest, _ => exact ⟨.bStep, rest, rfl, rfl, rfl⟩
  | true :: true :: true :: rest, _ => exact ⟨.bRev, rest, rfl, rfl, rfl⟩

/-- Settles O3: the code at the front is found by walking down the tree; that it is the only one is that codes are cut off
exactly. -/
theorem streamCodesCoverBitStrings : Obligations.StreamCodesCoverBitStrings := by
  intro shr f bits hf hlen
  have hcode : ∃ i more, i.format = f ∧ (i.wf shr = true ∨ i = .aRun 0) ∧ bits = encodeBits shr i ++ more := by
    rcases hf with rfl | rfl
    · exact exists_acode shr hlen
    · obtain ⟨i, more, hformat, hi, hbits⟩ := exists_bcode shr hlen
      exact ⟨i, more, hformat, .inl hi, hbits⟩
  refine ⟨?_, fun i j more more' hif hjf hi hj hbits hbits' => ?_⟩
  · obtain ⟨i, more, rfl, hi, rfl⟩ := hcode
    exact ⟨i, more, decodeBits_encodeBits hi more, rfl, rfl⟩
  · have hdi := decodeBits_encodeBits (.inl hi) more
    have hdj := decodeBits_encodeBits (.inl hj) more'
    rw [hif, ← hbits] at hdi
    rw [hjf, ← hbits', hdi] at hdj
    cases hdj
    rfl

/-! ## Type bytes and words -/

theorem familyOfBase_eq_some {n : Nat} {p : Family × Bool} : familyOfBase n = some p ↔ n = familyBase p.1 p.2 := by
  constructor
  · intro h
    unfold familyOfBase at h
    split at h <;> cases h <;> rfl
  · obtain ⟨f, tcap⟩ := p
    rintro rfl
    cases f <;> cases tcap <;> rfl

theorem widthOfNat_eq_some {n : Nat} {shr : ShiftWidth} : widthOfNat n = some shr ↔ n = shr.toNat := by
  constructor
  · intro h
    unfold widthOfNat at h
    split at h <;> cases h <;> rfl
  · rintro rfl
    cases shr <;> rfl

/-- The bases are multiples of 10 that leave room for a width (R74). -/
theorem familyBase_mod (f : Family) (tcap : Bool) : familyBase f tcap % 10 = 0 ∧ familyBase f tcap ≤ 120 := by
  cases f <;> cases tcap <;> decide

theorem typeByte_toNat (f : Family) (tcap : Bool) (shr : ShiftWidth) :
    (typeByte f tcap shr).toNat = familyBase f tcap + shr.toNat := by
  have hbase := (familyBase_mod f tcap).2
  have hshr := (ShiftWidth.toNat_bounds shr).2
  rw [typeByte, BitVec.toNat_ofNat, Nat.mod_eq_of_lt (by omega)]

theorem decodeType_eq_some {b : Byte} {f : Family} {tcap : Bool} {shr : ShiftWidth} :
    decodeType b = some (f, tcap, shr) ↔ b = typeByte f tcap shr := by
  have hparts : decodeType b = some (f, tcap, shr) ↔
      familyOfBase (b.toNat - b.toNat % 10) = some (f, tcap) ∧ widthOfNat (b.toNat % 10) = some shr := by
    unfold decodeType
    cases familyOfBase (b.toNat - b.toNat % 10) <;> cases widthOfNat (b.toNat % 10) <;> simp [Prod.ext_iff, and_assoc]
  have hbase := (familyBase_mod f tcap).1
  have hshr := (ShiftWidth.toNat_bounds shr).2
  rw [hparts, familyOfBase_eq_some, widthOfNat_eq_some]
  dsimp only
  refine ⟨fun ⟨hb, hw⟩ => BitVec.eq_of_toNat_eq ?_, fun h => ?_⟩
  · rw [typeByte_toNat]
    omega
  · rw [h, typeByte_toNat]
    omega

/-- The rows of R74's table: each base with each width, in the order of the type bytes. -/
def typeRows : List (Family × Bool × ShiftWidth) :=
  [(Family.c, false), (.b, false), (.c, true), (.b, true), (.a6, false), (.a6, true), (.a, false), (.a, true)].flatMap
    fun p => [ShiftWidth.w4, .w5, .w6, .w7, .w8].map fun shr => (p.1, p.2, shr)

theorem mem_typeRows (p : Family × Bool × ShiftWidth) : p ∈ typeRows := by
  obtain ⟨f, tcap, shr⟩ := p
  cases f <;> cases tcap <;> cases shr <;> decide

/-- Settles O4. -/
theorem typeByteTable : Obligations.TypeByteTable := by
  refine ⟨fun b f tcap shr => decodeType_eq_some, fun b => ?_⟩
  have hrow : (decodeType b).isSome = true ↔ ∃ p ∈ typeRows, (typeByte p.1 p.2.1 p.2.2).toNat = b.toNat := by
    rw [Option.isSome_iff_exists]
    refine exists_congr fun p => ?_
    rw [and_iff_right (mem_typeRows p), decodeType_eq_some, ← BitVec.toNat_inj, eq_comm]
  rw [hrow, ← List.mem_map]
  rfl

/-- Settles O5. -/
theorem wordsDecode : Obligations.WordsDecode :=
  ⟨rfl, rfl, rfl, rfl, rfl, rfl, rfl, rfl, rfl, rfl, rfl, rfl⟩

end Sys2Proof.Machine

namespace Sys2Proof.Machine

/-! ## Bytes of a memory that was written elsewhere -/

theorem Memory.bytes_congr {m m' : Memory} {a n : Nat} (h : ∀ b, a ≤ b → b < a + n → m'.read b = m.read b) :
    m'.bytes a n = m.bytes a n := by
  refine List.map_congr_left fun b hb => ?_
  obtain ⟨hlow, hhigh⟩ := List.mem_range'_1.mp hb
  exact h b hlow hhigh

/-! ## Rows of a mask column -/

/-- Where rows lie, and whether they are overwritten, is said by the registers alone (R51, R192). -/
theorem State.putRows_regs {s t : State} (h : t.regs = s.regs) (st y : Nat) (vs : List Byte) (m : Memory) :
    t.putRows st y vs m = s.putRows st y vs m := by
  induction vs generalizing y m with
  | nil => rfl
  | cons v vs ih =>
    have haddr : t.rowAddr st y = s.rowAddr st y := by
      show t.regs.pixBase.toNat + y * t.regs.stride.toNat + st = s.regs.pixBase.toNat + y * s.regs.stride.toNat + st
      rw [h]
    rw [State.putRows, State.putRows, haddr, h, ih]

theorem State.putRows_read_other {s : State} {st y a : Nat} {vs : List Byte} (m : Memory)
    (h : ∀ j, y ≤ j → j < y + vs.length → a ≠ s.rowAddr st j) : (s.putRows st y vs m).read a = m.read a := by
  induction vs generalizing y m with
  | nil => rfl
  | cons v vs ih =>
    rw [List.length_cons] at h
    rw [State.putRows, ih _ fun j hj hj' => h j (by omega) (by omega)]
    exact Memory.read_write_other m _ (h y le_rfl (by omega))

theorem writeRow_reached {s : State} (hrun : s.Running) {y : Nat} (hy : s.columnAddr y < Config.addrSpace) (v : Byte) :
    (writeRow y v).run s = .ok () (s.setMem (s.putRows s.sel.stripe y [v] s.mem)) := by
  rw [writeRow_run, if_pos ((State.reaches_iff _ _).mpr ⟨hrun, hy⟩)]
  rfl

theorem nextByte_reached {s : State} (hrun : s.Running) (hptr : s.mask.mptr < s.blobEnd)
    (hend : s.blobEnd ≤ Config.addrSpace) :
    nextByte.run s = .ok (s.mem.read s.mask.mptr) (s.setMask { s.mask with mptr := s.mask.mptr + 1 }) := by
  rw [nextByte_run, if_neg (not_le.mpr hptr), if_pos ((State.reaches_iff _ _).mpr ⟨hrun, hptr.trans_le hend⟩)]

theorem repeatRows_reached (v : Byte) (n : Nat) {s : State} {y : Nat} (hrun : s.Running)
    (haddr : ∀ j, y ≤ j → j < y + n → s.columnAddr j < Config.addrSpace) :
    (repeatRows v n y).run s = .ok () (s.setMem (s.putRows s.sel.stripe y (List.replicate n v) s.mem)) := by
  induction n generalizing s y with
  | zero => rfl
  | succ n ih =>
    have hrest := ih (s := s.setMem (s.putRows s.sel.stripe y [v] s.mem)) (y := y + 1) hrun
      fun j hj hj' => haddr j (by omega) (by omega)
    rw [State.setMem_setMem, State.putRows_regs (State.setMem_regs _ _)] at hrest
    rw [repeatRows, EStateM.run_bind, writeRow_reached hrun (haddr y le_rfl (by omega))]
    exact hrest

/-- The state with `MPTR` past `n` more bytes (R192). -/
def State.pastBytes (s : State) (n : Nat) : State := s.setMask { s.mask with mptr := s.mask.mptr + n }

/-- One row of a literal run: its payload byte is read, then written (R192). -/
theorem literalRow_reached {s : State} (hrun : s.Running) {y : Nat} (hy : s.columnAddr y < Config.addrSpace)
    (hptr : s.mask.mptr < s.blobEnd) (hend : s.blobEnd ≤ Config.addrSpace) (n : Nat) :
    (literalRows (n + 1) y).run s = (literalRows n (y + 1)).run
      ((s.pastBytes 1).setMem (s.putRows s.sel.stripe y [s.mem.read s.mask.mptr] s.mem)) := by
  have hread : nextByte.run s = .ok (s.mem.read s.mask.mptr) (s.pastBytes 1) := nextByte_reached hrun hptr hend
  have hwrite : (writeRow y (s.mem.read s.mask.mptr)).run (s.pastBytes 1) =
      .ok () ((s.pastBytes 1).setMem (s.putRows s.sel.stripe y [s.mem.read s.mask.mptr] s.mem)) :=
    writeRow_reached (s := s.pastBytes 1) hrun hy _
  simp only [literalRows, EStateM.run_bind, hread, hwrite]

/-- A literal run whose rows lie apart from the blob reads the payload that stood there before (R192). -/
theorem literalRows_reached (n : Nat) {s : State} {y : Nat} (hrun : s.Running)
    (haddr : ∀ j, y ≤ j → j < y + n → s.columnAddr j < Config.addrSpace ∧
      (s.columnAddr j < s.mask.mptr ∨ s.blobEnd ≤ s.columnAddr j))
    (hptr : s.mask.mptr + n ≤ s.blobEnd) (hend : s.blobEnd ≤ Config.addrSpace) :
    (literalRows n y).run s =
      .ok () ((s.pastBytes n).setMem (s.putRows s.sel.stripe y (s.mem.bytes s.mask.mptr n) s.mem)) := by
  induction n generalizing s y with
  | zero => rfl
  | succ n ih =>
    obtain ⟨hy, hapart⟩ := haddr y le_rfl (by omega)
    have hpayload : (s.putRows s.sel.stripe y [s.mem.read s.mask.mptr] s.mem).bytes (s.mask.mptr + 1) n =
        s.mem.bytes (s.mask.mptr + 1) n := by
      refine Memory.bytes_congr fun b hb hb' => Memory.read_write_other _ _ ?_
      show b ≠ s.columnAddr y
      omega
    have hpast : (s.pastBytes 1).pastBytes n = s.pastBytes (n + 1) := by
      show s.setMask { s.mask with mptr := s.mask.mptr + 1 + n } = _
      rw [Nat.add_assoc, Nat.add_comm 1]
      rfl
    rw [literalRow_reached hrun hy (by omega) hend, Memory.bytes_succ, State.putRows, ← hpast, ← hpayload]
    refine (ih (s := (s.pastBytes 1).setMem (s.putRows s.sel.stripe y [s.mem.read s.mask.mptr] s.mem)) hrun
      (fun j hj hj' => ?_) ?_ hend).trans ?_
    · obtain ⟨hspace, hout⟩ := haddr j (by omega) (by omega)
      exact ⟨hspace, hout.imp_left Nat.lt_succ_of_lt⟩
    · show s.mask.mptr + 1 + n ≤ s.blobEnd
      omega
    · rw [State.putRows_regs (s := s) (t := (s.pastBytes 1).setMem _) rfl]
      rfl

/-! ## Mask runs -/

/-- A count of 0 (R92, R193). -/
theorem exec_mRep_zero (s : State) (v : Byte) : exec (.mRep 0 v) s = .next (raiseError .format s) := rfl
theorem exec_mLit_zero (s : State) : exec (.mLit 0) s = .next (raiseError .format s) := rfl

theorem exec_mRep {s t : State} {n : BitVec 7} (hn : n ≠ 0) (v : Byte)
    (hrows : (repeatRows v (s.clippedRows n) s.mask.y).run s = .ok () t) :
    exec (.mRep n v) s = .next (t.setMask { t.mask with y := t.mask.y + s.clippedRows n }) := by
  refine runUnit_ok (u := ()) ?_
  rw [applyMRep, if_neg hn]
  simp only [EStateM.run_bind, EStateM.run_get, hrows, setMask_run]

theorem exec_mLit {s t : State} {n : BitVec 7} (hn : n ≠ 0)
    (hrows : (literalRows (s.clippedRows n) s.mask.y).run s = .ok () t) :
    exec (.mLit n) s = .next (t.setMask { t.mask with y := t.mask.y + s.clippedRows n }) := by
  refine runUnit_ok (u := ()) ?_
  rw [applyMLit, if_neg hn]
  simp only [EStateM.run_bind, EStateM.run_get, hrows, setMask_run]

/-- A clipped run fills rows of the column (R193). -/
theorem State.clippedRow_lt {s : State} {n : BitVec 7} {j : Nat} (hj : s.mask.y ≤ j) (hj' : j < s.mask.y + s.clippedRows n) :
    j < s.regs.height.toNat := by
  rw [State.clippedRows] at hj'
  omega

/-- Settles O44. -/
theorem maskRepeatRun : Obligations.MaskRepeatRun := by
  intro s n v
  refine ⟨fun hn hrun haddr => ?_, fun hn => hn ▸ exec_mRep_zero s v⟩
  have hrows := repeatRows_reached v (s.clippedRows n) (y := s.mask.y) hrun
    fun j hj hj' => haddr j (State.clippedRow_lt hj hj')
  refine ⟨_, exec_mRep hn v hrows, rfl, fun a ha => State.putRows_read_other _ fun j hj hj' => ha j hj ?_⟩
  rwa [List.length_replicate] at hj'

/-- Settles O45. -/
theorem maskLiteralRun : Obligations.MaskLiteralRun := by
  intro s n
  refine ⟨fun hn _ hrun haddr hptr hend => ?_, fun hn => hn ▸ exec_mLit_zero s⟩
  have hrows := literalRows_reached (s.clippedRows n) (y := s.mask.y) hrun
    (fun j hj hj' => haddr j (State.clippedRow_lt hj hj')) hptr hend
  refine ⟨_, exec_mLit hn hrows, rfl, fun a ha => State.putRows_read_other _ fun j hj hj' => ha j hj ?_⟩
  rwa [Memory.bytes_length] at hj'

/-- Settles O47: the reserved headers raise `ERR_FORMAT`, which names the stripe. -/
theorem reservedMaskHeaders : Obligations.ReservedMaskHeaders := by
  have hraise (s : State) : runUnit applyMReserved s = .next (raiseError .format s) := rfl
  rintro s i (rfl | rfl)
  · exact hraise s
  · exact hraise s

end Sys2Proof.Machine

namespace Sys2Proof.Machine

/-! ## Colours put in a stripe -/

theorem State.putColors_regs {s t : State} (h : t.regs = s.regs) (f : Family) (tr : Bool) (st k : Nat) (cs : List Byte)
    (m : Memory) : t.putColors f tr st k cs m = s.putColors f tr st k cs m := by
  induction cs generalizing k m with
  | nil => rfl
  | cons c cs ih =>
    have haddr : (t.onStripe st).pixelAddr f k = (s.onStripe st).pixelAddr f k := by
      simp only [State.pixelAddr, State.stripeAddr, State.onStripe, State.setSel_regs, State.setSel_sel, h]
    rw [State.putColors, State.putColors, haddr, h, ih]

theorem State.putColors_append (s : State) (f : Family) (tr : Bool) (st k : Nat) (cs ds : List Byte) (m : Memory) :
    s.putColors f tr st k (cs ++ ds) m = s.putColors f tr st (k + cs.length) ds (s.putColors f tr st k cs m) := by
  induction cs generalizing k m with
  | nil => rfl
  | cons c cs ih =>
    rw [List.cons_append, State.putColors, State.putColors, ih, List.length_cons, Nat.add_right_comm, Nat.add_assoc]

theorem State.putColors_read_other {s : State} {f : Family} {tr : Bool} {st k a : Nat} {cs : List Byte} (m : Memory)
    (h : ∀ j, k ≤ j → j < k + cs.length → a ≠ (s.onStripe st).pixelAddr f j) :
    (s.putColors f tr st k cs m).read a = m.read a := by
  induction cs generalizing k m with
  | nil => rfl
  | cons c cs ih =>
    rw [List.length_cons] at h
    rw [State.putColors, ih _ fun j hj hj' => h j (by omega) (by omega)]
    split
    · rfl
    · exact Memory.read_write_other m _ (h k le_rfl (by omega))

theorem put_reached {s : State} (hrun : s.Running) {k : Nat} (hk : s.pixelAddr s.dp.fam k < Config.addrSpace) (c : Byte) :
    (put k c).run s = .ok () (s.setMem (s.putColors s.dp.fam s.dp.tr s.sel.stripe k [c] s.mem)) := by
  have hskip : (s.dp.tr && decide (c = s.regs.transpColor)) = true ↔ s.dp.tr = true ∧ c = s.regs.transpColor := by
    rw [Bool.and_eq_true, decide_eq_true_eq]
  rw [put_run, State.putColors, State.putColors]
  split
  · next h => rw [if_pos (hskip.mpr h)]; rfl
  · next h =>
    rw [if_neg (mt hskip.mp h), writeByte_run, if_pos ((State.reaches_iff _ _).mpr ⟨hrun, hk⟩)]
    rfl

/-- The state after colours were put at pixels `K`, `K` + 1, .. by the selects driven. -/
def State.painted (s : State) (cs : List Byte) : State :=
  (s.setMem (s.putColors s.dp.fam s.dp.tr s.sel.stripe s.dp.k cs s.mem)).setDp { s.dp with k := s.dp.k + cs.length }

theorem State.painted_append (s : State) (cs ds : List Byte) : s.painted (cs ++ ds) = (s.painted cs).painted ds := by
  have hcolors (m : Memory) := State.putColors_regs (s := s) (t := s.painted cs) rfl s.dp.fam s.dp.tr s.sel.stripe
    (s.dp.k + cs.length) ds m
  unfold State.painted at hcolors ⊢
  rw [State.putColors_append, List.length_append, ← Nat.add_assoc, ← hcolors]
  rfl

/-- The state with another `RUN` (R21). -/
def State.setRun (s : State) (n : Nat) : State := s.setDp { s.dp with run := n }

theorem putNext_reached {s : State} (hrun : s.Running) (hk : s.pixelAddr s.dp.fam s.dp.k < Config.addrSpace) :
    putNext.run s = .ok () (s.painted [s.dp.color]) := by
  rw [putNext]
  simp only [EStateM.run_bind, EStateM.run_get, put_reached hrun hk]
  rfl

/-- The repetitions of a run-length escape, counted down in `RUN` (R139). -/
theorem runPixels_reached (n : Nat) {s : State} (hrun : s.Running)
    (haddr : ∀ k, s.dp.k ≤ k → k < s.dp.k + n → s.pixelAddr s.dp.fam k < Config.addrSpace) :
    (runPixels n).run (s.setRun n) = .ok () ((s.setRun 0).painted (List.replicate n s.dp.color)) := by
  induction n generalizing s with
  | zero => rfl
  | succ n ih =>
    have hnext : putNext.run (s.setRun (n + 1)) = .ok () ((s.setRun (n + 1)).painted [s.dp.color]) :=
      putNext_reached hrun (haddr s.dp.k le_rfl (by omega))
    have hset : (setDp fun d => { d with run := n }).run ((s.setRun (n + 1)).painted [s.dp.color]) =
        .ok () ((s.painted [s.dp.color]).setRun n) := rfl
    have hrest : (runPixels n).run ((s.painted [s.dp.color]).setRun n) =
        .ok () (((s.setRun 0).painted [s.dp.color]).painted (List.replicate n s.dp.color)) :=
      ih hrun fun k (hk : s.dp.k + 1 ≤ k) (hk' : k < s.dp.k + 1 + n) => haddr k (by omega) (by omega)
    rw [List.replicate_succ, ← List.singleton_append, State.painted_append, runPixels]
    simp only [EStateM.run_bind, hnext, hset, hrest]

/-! ## One stream code -/

/-- What a stripe decoder does with a code it has read (R136 to R139, R146 to R149). -/
def applyCode : Instr → Act Unit
  | .aRep => applyARep
  | .aLit v => applyALit v
  | .aDelta d => applyADelta d
  | .aRun n => applyARun n
  | .bRep => applyBRep
  | .bLit v => applyBLit v
  | .bStep => applyBStep
  | .bRev => applyBRev
  | _ => return ()

/-- The code at the stream cursor, in a family's format (R132, R142). -/
def fetchCode : Family → Act Instr
  | .a | .a6 => fetchACode
  | .b | .c => fetchBCode

/-- One round of a family's decoder (R132, R142). -/
def decodeCode : Family → Act Unit
  | .a | .a6 => decodeACode
  | .b | .c => decodeBCode

theorem ite_bind {α β : Type} (c : Prop) [Decidable c] (x y : Act α) (f : α → Act β) :
    (if c then x else y) >>= f = if c then x >>= f else y >>= f := apply_ite (· >>= f) c x y

theorem decodeACode_eq : decodeACode = (do let i ← fetchACode; applyCode i) := by
  simp only [decodeACode, fetchACode, walkA, bind_assoc, ite_bind, pure_bind, applyCode]

theorem decodeBCode_eq : decodeBCode = (do let i ← fetchBCode; applyCode i) := by
  simp only [decodeBCode, fetchBCode, walkB, bind_assoc, ite_bind, pure_bind, applyCode]

theorem decodeCode_eq (f : Family) : decodeCode f = (do let i ← fetchCode f; applyCode i) := by
  cases f
  · exact decodeACode_eq
  · exact decodeACode_eq
  · exact decodeBCode_eq
  · exact decodeBCode_eq

theorem applyCode_onePixel {i : Instr} (hi : OnePixel i) :
    applyCode i = (do needPixel; setDp (Datapath.coded i); putNext) := by
  have hrepeat (i : Instr) (hc : ∀ d, Datapath.coded i d = d) :
      (do needPixel; putNext : Act Unit) = (do needPixel; setDp (Datapath.coded i); putNext) := by
    rw [show Datapath.coded i = id from funext hc]
    rfl
  rcases hi with hi | ⟨v, d, rfl | rfl | rfl⟩
  · simp only [List.mem_cons, List.not_mem_nil, or_false] at hi
    rcases hi with rfl | rfl | rfl | rfl
    · exact hrepeat .aRep fun _ => rfl
    · exact hrepeat .bRep fun _ => rfl
    · rfl
    · rfl
  · rfl
  · rfl
  · rfl

/-- How many pixels a code puts: as many as it stands for, at most those left (R135). -/
def State.takes (s : State) (i : Instr) : Nat := min (codePixels i) (s.npix - s.dp.k)

/-- The state after a code that was read: its colour and direction, and its pixels (R136 to R139, R146 to R149). -/
def State.coded (s : State) (i : Instr) : State :=
  (s.setDp (s.dp.coded i)).painted (List.replicate (s.takes i) (s.dp.coded i).color)

/-- A code's format and operands, as a family's decoder reads it: a one-pixel code, or a run of at least one pixel. -/
theorem onePixel_or_run {f : Family} {shr : ShiftWidth} {i : Instr} (hf : i.format = codeFormat f) (hi : i.wf shr = true) :
    OnePixel i ∨ ∃ n, n ≠ 0 ∧ i = .aRun n := by
  cases i with
  | aRep | bRep | bStep | bRev => exact .inl (.inl (by simp))
  | aLit v => exact .inl (.inr ⟨v, 0, .inl rfl⟩)
  | aDelta d => exact .inl (.inr ⟨0, d, .inr (.inl rfl)⟩)
  | bLit v => exact .inl (.inr ⟨v, 0, .inr (.inr rfl)⟩)
  | aRun n =>
    refine .inr ⟨n, ?_, rfl⟩
    rintro rfl
    cases hi
  | _ => cases f <;> cases hf

theorem codePixels_of_onePixel {i : Instr} (hi : OnePixel i) : codePixels i = 1 := by
  rcases hi with hi | ⟨v, d, rfl | rfl | rfl⟩
  · simp only [List.mem_cons, List.not_mem_nil, or_false] at hi
    rcases hi with rfl | rfl | rfl | rfl <;> rfl
  · rfl
  · rfl
  · rfl

theorem codePixels_pos {f : Family} {shr : ShiftWidth} {i : Instr} (hf : i.format = codeFormat f) (hi : i.wf shr = true) :
    1 ≤ codePixels i := by
  rcases onePixel_or_run hf hi with h | ⟨n, hn, rfl⟩
  · exact (codePixels_of_onePixel h).ge
  · exact Nat.one_le_iff_ne_zero.mpr fun h0 => hn (BitVec.eq_of_toNat_eq h0)

/-- A code read while a pixel is left puts its pixels, where their places are reached. -/
theorem applyCode_reached {f : Family} {shr : ShiftWidth} {i : Instr} (hf : i.format = codeFormat f) (hi : i.wf shr = true)
    {s : State} (hrun : s.Running) (hzero : s.dp.run = 0) (hk : s.dp.k < s.npix)
    (haddr : ∀ k < s.npix, s.pixelAddr s.dp.fam k < Config.addrSpace) : (applyCode i).run s = .ok () (s.coded i) := by
  rcases onePixel_or_run hf hi with hone | ⟨n, hn, rfl⟩
  · have htakes : s.takes i = 1 := by
      rw [State.takes, codePixels_of_onePixel hone]
      omega
    have hneed : needPixel.run s = .ok () s := by rw [needPixel_run, if_pos hk]
    have hnext : putNext.run (s.setDp (s.dp.coded i)) = .ok () ((s.setDp (s.dp.coded i)).painted [(s.dp.coded i).color]) :=
      putNext_reached (s := s.setDp (s.dp.coded i)) hrun (haddr s.dp.k hk)
    rw [applyCode_onePixel hone, State.coded, htakes]
    simp only [EStateM.run_bind, hneed, setDp_run, hnext]
    rfl
  · have hset : (setDp fun d => { d with run := s.takes (.aRun n) }).run s = .ok () (s.setRun (s.takes (.aRun n))) := rfl
    have hpixels := runPixels_reached (s.takes (.aRun n)) (s := s) hrun fun k hk hk' => haddr k (by
      rw [State.takes] at hk'
      omega)
    have hself : s.setRun 0 = s := by
      rw [State.setRun, ← hzero]
      rfl
    rw [hself] at hpixels
    rw [applyCode, applyARun, if_neg hn]
    simp only [EStateM.run_bind, EStateM.run_get]
    show ((do setDp fun d => { d with run := s.takes (.aRun n) }; runPixels (s.takes (.aRun n)) : Act Unit)).run s = _
    rw [EStateM.run_bind, hset]
    exact hpixels

/-! ## Reading one code -/

/-- Reads do not move the fill pointer back. -/
theorem readNbits_rptr (r n : Nat) : Keeps (fun _ _ => True) (fun t => r ≤ t.bu.rptr) (readNbits n) := by
  have hfill : Keeps (fun _ _ => True) (fun t => r ≤ t.bu.rptr) unpackerFill := by
    intro s hs
    rw [unpackerFill_run]
    split
    · split
      · exact Nat.le_succ_of_le hs
      · trivial
    · exact hs
  refine Triple.ite (fun _ => hfill.bind fun _ => Triple.read_bind fun s _ => ?_) fun _ => Triple.throw fun _ _ => trivial
  refine Triple.ite (fun _ => Triple.throw fun _ _ => trivial) fun _ => ?_
  have htake : Keeps (fun _ _ => True) (fun t => r ≤ t.bu.rptr) (modify fun s => s.setBu (s.bu.take n)) :=
    Triple.update fun _ h => h
  exact htake.bind fun _ => Triple.read_bind fun s _ => Triple.pure fun _ h => h

theorem fetchCode_rptr (f : Family) (r : Nat) : Keeps (fun _ _ => True) (fun t => r ≤ t.bu.rptr) (fetchCode f) := by
  have ha : Keeps (fun _ _ => True) (fun t => r ≤ t.bu.rptr) fetchACode :=
    Triple.read_bind fun _ _ => Keeps.of_sim (Sim.walk_familyA _ (fun n => (readNbits_rptr r n).sim) (Sim.pure _)
      (fun _ => Sim.pure _) (fun _ => Sim.pure _) fun _ => Sim.pure _)
  have hb : Keeps (fun _ _ => True) (fun t => r ≤ t.bu.rptr) fetchBCode :=
    Triple.read_bind fun _ _ => Keeps.of_sim (Sim.walk_familyB _ (fun n => (readNbits_rptr r n).sim) (Sim.pure _)
      (fun _ => Sim.pure _) (Sim.pure _) (Sim.pure _))
  cases f
  · exact ha
  · exact ha
  · exact hb
  · exact hb

/-- A family's decoder reads the code that the pending bits spell (R88). -/
theorem fetchCode_reads {f : Family} {s : State} (hs : s.Readable) {i : Instr} {more : List Bool}
    (hf : i.format = codeFormat f) (hi : i.wf s.dp.shr = true) (hp : s.pending = encodeBits s.dp.shr i ++ more) :
    ∃ u, (fetchCode f).run s = .ok i (s.setBu u) ∧ (s.setBu u).pending = more ∧ Advanced s u ∧ s.bu.rptr ≤ u.rptr := by
  have hdecode : decodeBits (codeFormat f) s.dp.shr s.pending = .ok (i, more) := by
    rw [hp, ← hf, decodeBits_encodeBits (.inl hi)]
  have hread : ∃ u, (fetchCode f).run s = .ok i (s.setBu u) ∧ (s.setBu u).pending = more ∧ Advanced s u := by
    cases f
    · exact (Follows.acode s.dp.shr s hs).1 i more hdecode
    · exact (Follows.acode s.dp.shr s hs).1 i more hdecode
    · exact (Follows.bcode s.dp.shr s hs).1 i more hdecode
    · exact (Follows.bcode s.dp.shr s hs).1 i more hdecode
  obtain ⟨u, hu, hmore, hadv⟩ := hread
  have hrptr := fetchCode_rptr f s.bu.rptr (s := s) le_rfl
  rw [hu] at hrptr
  exact ⟨u, hu, hmore, hadv, hrptr⟩

/-! ## The loop of a stripe decoder -/

/-- A decoder can go on: bits can be read, no run is under way, and the stripe's pixels are in the space and apart from the
source that is not read yet. -/
structure State.Drawing (s : State) : Prop where
  readable : s.Readable
  run : s.dp.run = 0
  place : ∀ k < s.npix, s.pixelAddr s.dp.fam k < Config.addrSpace ∧
    (s.pixelAddr s.dp.fam k < s.bu.rptr ∨ s.bu.rend ≤ s.pixelAddr s.dp.fam k)

section
variable {s t : State} {u w : Unpacker}

theorem State.Drawing.setBu (hs : s.Drawing) (h : Advanced s u) (hptr : s.bu.rptr ≤ u.rptr) : (s.setBu u).Drawing where
  readable := h.readable hs.readable
  run := hs.run
  place k hk := by
    obtain ⟨hspace, hapart⟩ := hs.place k hk
    refine ⟨hspace, hapart.imp (fun hlow => hlow.trans_le hptr) fun hhigh => ?_⟩
    exact h.rend.trans_le hhigh

theorem State.Drawing.painted (hs : s.Drawing) (cs : List Byte) : (s.painted cs).Drawing :=
  ⟨⟨hs.readable.ok, hs.readable.running, hs.readable.inSpace⟩, hs.run, hs.place⟩

theorem State.Drawing.coded (hs : s.Drawing) (i : Instr) : (s.coded i).Drawing :=
  State.Drawing.painted (s := s.setDp (s.dp.coded i))
    ⟨⟨hs.readable.ok, hs.readable.running, hs.readable.inSpace⟩, hs.run, hs.place⟩ _

/-- Pixels of the stripe are no bytes of the source. -/
theorem State.Drawing.painted_pending (hs : s.Drawing) {cs : List Byte} (hk : s.dp.k + cs.length ≤ s.npix) :
    (s.painted cs).pending = s.pending := by
  have hsource : (s.painted cs).mem.bytes s.bu.rptr (s.bu.rend - s.bu.rptr) =
      s.mem.bytes s.bu.rptr (s.bu.rend - s.bu.rptr) := by
    refine Memory.bytes_congr fun b hb hb' => State.putColors_read_other _ fun j hj hj' => ?_
    obtain ⟨_, hapart⟩ := hs.place j (by omega)
    show b ≠ s.pixelAddr s.dp.fam j
    omega
  exact congrArg (fun bytes => bitsOf s.bu.rcnt s.bu.racc.toNat ++ streamBits bytes) hsource

theorem State.Drawing.coded_pending (hs : s.Drawing) {i : Instr} (hk : s.dp.k ≤ s.npix) :
    (s.coded i).pending = s.pending := by
  have hroom : s.dp.k + (List.replicate (s.takes i) (s.dp.coded i).color).length ≤ s.npix := by
    rw [List.length_replicate, State.takes]
    omega
  exact State.Drawing.painted_pending (s := s.setDp (s.dp.coded i))
    ⟨⟨hs.readable.ok, hs.readable.running, hs.readable.inSpace⟩, hs.run, hs.place⟩ hroom

theorem State.coded_setBu (s : State) (u : Unpacker) (i : Instr) : (s.setBu u).coded i = (s.coded i).setBu u := by
  have hcolors := State.putColors_regs (s := s.setDp (s.dp.coded i)) (t := (s.setBu u).setDp (s.dp.coded i)) rfl
    s.dp.fam s.dp.tr s.sel.stripe s.dp.k (List.replicate (s.takes i) (s.dp.coded i).color) s.mem
  exact congrArg (fun m => ((s.coded i).setMem m).setBu u) hcolors

/-- Advances add up, whatever is done between them to other parts of the state. -/
theorem Advanced.trans_of_bu (h : Advanced s u) (ht : t.bu = u) (h' : Advanced t w) : Advanced s w := by
  refine ⟨h'.ok, h'.start.trans (ht ▸ h.start), h'.rend.trans (ht ▸ h.rend), ?_⟩
  have hcursor := h.cursor
  have hcursor' := h'.cursor
  rw [State.pending_length, State.pending_length] at hcursor hcursor' ⊢
  rw [ht] at hcursor'
  exact hcursor'.trans hcursor

theorem decodeCode_reached (hs : s.Drawing) (hk : s.dp.k < s.npix) {i : Instr} {more : List Bool}
    (hf : i.format = codeFormat s.dp.fam) (hi : i.wf s.dp.shr = true) (hp : s.pending = encodeBits s.dp.shr i ++ more) :
    ∃ u, (decodeCode s.dp.fam).run s = .ok () ((s.coded i).setBu u) ∧ ((s.coded i).setBu u).pending = more ∧
      Advanced s u ∧ ((s.coded i).setBu u).Drawing := by
  simp only [← State.coded_setBu]
  obtain ⟨u, hfetch, hmore, hadv, hptr⟩ := fetchCode_reads hs.readable hf hi hp
  have hu := hs.setBu hadv hptr
  have happly : (applyCode i).run (s.setBu u) = .ok () ((s.setBu u).coded i) :=
    applyCode_reached hf hi hs.readable.running hs.run hk fun k hk => (hs.place k hk).1
  refine ⟨u, ?_, (hu.coded_pending hk.le).trans hmore, hadv, hu.coded i⟩
  rw [decodeCode_eq, EStateM.run_bind, hfetch]
  exact happly

end

end Sys2Proof.Machine

namespace Sys2Proof.Machine

/-! ## The codes of a stripe -/

/-- The codes are all needed: each but the last leaves a pixel (R79, R135). -/
abbrev Needed (left : Nat) (codes : List Instr) : Prop := codes = [] ∨ pixelCount codes.dropLast < left

theorem pixelCount_cons (i : Instr) (codes : List Instr) : pixelCount (i :: codes) = codePixels i + pixelCount codes := by
  rw [pixelCount, List.map_cons, List.sum_cons, pixelCount]

/-- The first of needed codes: a pixel is left, and the others are needed after it. -/
theorem Needed.cons {left : Nat} {i : Instr} {codes : List Instr} (h : Needed left (i :: codes)) :
    0 < left ∧ Needed (left - min (codePixels i) left) codes := by
  have hlt := h.resolve_left (List.cons_ne_nil i codes)
  refine ⟨by omega, ?_⟩
  cases codes with
  | nil => exact .inl rfl
  | cons j codes =>
    rw [List.dropLast_cons_cons, pixelCount_cons] at hlt
    exact .inr (by omega)

/-- Needed codes are no more than the pixels left, since each stands for one at least. -/
theorem Needed.length_le {f : Family} {shr : ShiftWidth} {left : Nat} {codes : List Instr} (h : Needed left codes)
    (hcodes : FamilyCodes f shr codes) : codes.length ≤ left := by
  induction codes generalizing left with
  | nil => exact Nat.zero_le left
  | cons i codes ih =>
    obtain ⟨hleft, hrest⟩ := h.cons
    obtain ⟨hf, hi⟩ := hcodes i (List.mem_cons_self ..)
    have hpos := codePixels_pos hf hi
    have hlen := ih hrest fun j hj => hcodes j (List.mem_cons_of_mem i hj)
    rw [List.length_cons]
    omega

theorem foldl_coded_setBu (codes : List Instr) (s : State) (u : Unpacker) :
    codes.foldl State.coded (s.setBu u) = (codes.foldl State.coded s).setBu u := by
  induction codes generalizing s with
  | nil => rfl
  | cons i codes ih => rw [List.foldl_cons, State.coded_setBu, ih, List.foldl_cons]

/-- A decoder's loop reads and puts the codes that are needed, then goes on. -/
theorem decodeCodes_reached (codes : List Instr) {s : State} (hs : s.Drawing) {more : List Bool}
    (hcodes : FamilyCodes s.dp.fam s.dp.shr codes) (hneed : Needed (s.npix - s.dp.k) codes)
    (hp : s.pending = codes.flatMap (encodeBits s.dp.shr) ++ more) (n : Nat) :
    ∃ u, (whileUpTo State.pixelsLeft (decodeCode s.dp.fam) (codes.length + n)).run s =
        (whileUpTo State.pixelsLeft (decodeCode s.dp.fam) n).run ((codes.foldl State.coded s).setBu u) ∧
      ((codes.foldl State.coded s).setBu u).pending = more ∧ Advanced s u ∧
      ((codes.foldl State.coded s).setBu u).Drawing := by
  induction codes generalizing s with
  | nil =>
    rw [List.length_nil, Nat.zero_add, List.foldl_nil]
    exact ⟨s.bu, rfl, hp, Advanced.refl hs.readable.ok, hs⟩
  | cons i codes ih =>
    obtain ⟨hf, hi⟩ := hcodes i (List.mem_cons_self ..)
    obtain ⟨hleft, hrest⟩ := hneed.cons
    have hk : s.dp.k < s.npix := by omega
    rw [List.flatMap_cons, List.append_assoc] at hp
    obtain ⟨u, hcode, hmore, hadv, hdraw⟩ := decodeCode_reached hs hk hf hi hp
    have hneed' : Needed (s.npix - (s.dp.k + (List.replicate (s.takes i) (s.dp.coded i).color).length)) codes := by
      rwa [List.length_replicate, State.takes, ← Nat.sub_sub]
    obtain ⟨w, hloop, hmore', hadv', hdraw'⟩ := ih hdraw (fun j hj => hcodes j (List.mem_cons_of_mem i hj)) hneed' hmore
    rw [foldl_coded_setBu, State.setBu_setBu] at hloop hmore' hdraw'
    refine ⟨w, ?_, hmore', hadv.trans_of_bu rfl hadv', hdraw'⟩
    have hpixel : s.pixelsLeft = true := decide_eq_true hk
    rw [List.length_cons, Nat.add_right_comm, whileUpTo_step _ _ hpixel, EStateM.run_bind, hcode]
    exact hloop

/-- A code's own pixels and those of the codes after it, as far as pixels are left. -/
theorem take_paint_cons (c : Byte) (d : Dir) (i : Instr) (codes : List Instr) (left : Nat) :
    (paint c d (i :: codes)).take left = List.replicate (min (codePixels i) left) (nextColor c d i).1 ++
      (paint (nextColor c d i).1 (nextColor c d i).2 codes).take (left - min (codePixels i) left) := by
  rw [paint, List.take_append, List.take_replicate, List.length_replicate, Nat.min_comm]
  congr 2
  omega

/-- The colour and direction that a code leaves are no part of where its pixels are put. -/
theorem painted_coded (s : State) (i : Instr) (cs : List Byte) (d : Datapath) :
    ((s.setDp (s.dp.coded i)).painted cs).setDp d = (s.painted cs).setDp d := by
  have hcolors := State.putColors_regs (s := s) (t := s.setDp (s.dp.coded i)) rfl s.dp.fam s.dp.tr s.sel.stripe s.dp.k cs
    s.mem
  exact congrArg (fun m => (s.setMem m).setDp d) hcolors

/-- The state after some codes, by the colours they paint. -/
theorem foldl_coded (codes : List Instr) {s : State} (hk : s.dp.k ≤ s.npix) :
    codes.foldl State.coded s = (s.painted ((paint s.dp.color s.dp.inc codes).take (s.npix - s.dp.k))).setDp
      { s.dp with
        color := (lastColor s.dp.color s.dp.inc codes).1
        inc := (lastColor s.dp.color s.dp.inc codes).2
        k := min s.npix (s.dp.k + pixelCount codes) } := by
  induction codes generalizing s with
  | nil =>
    rw [List.foldl_nil, paint, List.take_nil, pixelCount, List.map_nil, List.sum_nil, Nat.add_zero, Nat.min_eq_right hk]
    rfl
  | cons i codes ih =>
    have hk' : (s.coded i).dp.k = s.dp.k + s.takes i := congrArg (s.dp.k + ·) (List.length_replicate ..)
    have hrest := ih (s := s.coded i) (by
      rw [hk', State.takes]
      show _ ≤ s.npix
      omega)
    have hleft : s.npix - (s.coded i).dp.k = s.npix - s.dp.k - min (codePixels i) (s.npix - s.dp.k) := by
      rw [hk', State.takes, Nat.sub_sub]
    have hlast : min s.npix ((s.coded i).dp.k + pixelCount codes) = min s.npix (s.dp.k + pixelCount (i :: codes)) := by
      rw [hk', State.takes, pixelCount_cons]
      omega
    rw [List.foldl_cons, hrest, take_paint_cons, ← painted_coded s i, State.painted_append, ← hleft, ← hlast]
    rfl

/-! ## The stripe decoders -/

/-- A stripe decoder of any family (R132, R133, R142 to R145). -/
def decodeStripe (st : Nat) (f : Family) (tr : Bool) : Act Unit := do
  beginStripe st f tr
  decodeFirst
  whileUpTo State.pixelsLeft (decodeCode f) (← get).npix

theorem exec_decoderInstr (f : Family) (tr : Bool) (st : Dim) (s : State) :
    exec (decoderInstr f tr st) s = runUnit (decodeStripe st.toNat f tr) s := by
  cases f <;> cases tr <;> rfl

theorem decodeFamily_eq (f : Family) (tr : Bool) :
    decodeFamily f tr = (do decodeStripe (← get).sel.stripe f tr) := by
  cases f <;> rfl

/-- The first pixel is put at pixel 0, and pixel 1 is the next (R132, R142). -/
theorem decodeFirst_reached {s : State} (hs : s.Readable) {p0 : Byte} {more : List Bool}
    (haddr : s.pixelAddr s.dp.fam 0 < Config.addrSpace) (hp : s.pending = bitsOf 8 p0.toNat ++ more) :
    ∃ u, decodeFirst.run s = .ok () (((s.setBu u).setDp { s.dp with color := p0, k := 0 }).painted [p0]) ∧
      (s.setBu u).pending = more ∧ Advanced s u ∧ s.bu.rptr ≤ u.rptr := by
  have hread : takeBits 8 s.pending = .ok (p0, more) := by
    rw [hp]
    exact Reads.byte p0 more
  obtain ⟨u, hu, hmore, hadv⟩ := (Follows.read (by omega) s hs).1 p0 more hread
  have hrptr := readNbits_rptr s.bu.rptr 8 (s := s) le_rfl
  rw [hu] at hrptr
  have hput : (put 0 p0).run ((s.setBu u).setDp { s.dp with color := p0 }) = .ok ()
      (((s.setBu u).setDp { s.dp with color := p0 }).setMem
        (s.putColors s.dp.fam s.dp.tr s.sel.stripe 0 [p0] s.mem)) :=
    put_reached (s := (s.setBu u).setDp { s.dp with color := p0 }) hs.running haddr p0
  refine ⟨u, ?_, hmore, hadv, hrptr⟩
  rw [decodeFirst, EStateM.run_bind, hu]
  show ((do setDp fun d => { d with color := p0 }; put 0 p0; setDp fun d => { d with k := 1 } : Act Unit)).run
    (s.setBu u) = _
  simp only [EStateM.run_bind, setDp_run, State.setBu_dp, hput]
  rfl

/-- The first pixel and then some codes lead from the beginning of a decoder to the state of `afterCodes`. -/
theorem foldl_coded_beginning (s : State) (f : Family) (tr : Bool) (st : Nat) (p0 : Byte) (codes : List Instr)
    (u w : Unpacker) (hpix : 1 ≤ s.npix) :
    (codes.foldl State.coded ((((s.beginning f tr st).setBu u).setDp
      { (s.beginning f tr st).dp with color := p0, k := 0 }).painted [p0])).setBu w = s.afterCodes f tr st p0 codes w := by
  have hcolors (cs : List Byte) := State.putColors_regs (s := s)
    (t := ((s.beginning f tr st).setBu u).setDp { (s.beginning f tr st).dp with color := p0, k := 0 }) rfl f tr st 0 cs s.mem
  have htake : (p0 :: paint p0 .down codes).take s.npix = [p0] ++ (paint p0 .down codes).take (s.npix - 1) := by
    obtain ⟨n, hn⟩ := Nat.exists_eq_add_of_le' hpix
    rw [hn, List.take_succ_cons]
    rfl
  rw [foldl_coded codes hpix, ← State.painted_append, State.afterCodes, htake, ← hcolors]
  rfl

/-- A stripe decoder whose source starts with a first pixel and codes that are all needed comes to the state after them, and
goes on from there. -/
theorem decodeStripe_reached {s : State} {f : Family} (tr : Bool) {st : Nat} {p0 : Byte} {codes : List Instr}
    {more : List Bool} (hready : s.StripeReady f st codes) (hneed : Needed (s.npix - 1) codes)
    (hp : s.pending = streamOf s.dp.shr p0 codes ++ more) :
    ∃ u, (decodeStripe st f tr).run s = (whileUpTo State.pixelsLeft (decodeCode f) (s.npix - codes.length)).run
        (s.afterCodes f tr st p0 codes u) ∧
      (s.afterCodes f tr st p0 codes u).pending = more ∧ Advanced s u ∧ (s.afterCodes f tr st p0 codes u).Drawing := by
  obtain ⟨hinv, hrun, hheight, hend, hplace, hcodes⟩ := hready
  have hpix : 1 ≤ s.npix := by
    have : s.regs.height.toNat ≠ 0 := fun h => hheight (BitVec.eq_of_toNat_eq h)
    rw [State.npix]
    omega
  have hdraw : (s.beginning f tr st).Drawing := ⟨⟨hinv.bu, hrun, hend⟩, rfl, hplace⟩
  rw [streamOf, List.append_assoc] at hp
  obtain ⟨u, hfirst, hmore, hadv, hptr⟩ := decodeFirst_reached hdraw.readable (hplace 0 hpix).1 hp
  have hu := hdraw.setBu hadv hptr
  have hstart : (((s.beginning f tr st).setBu u).setDp { (s.beginning f tr st).dp with color := p0, k := 0 }).Drawing :=
    ⟨⟨hu.readable.ok, hrun, hu.readable.inSpace⟩, rfl, hu.place⟩
  obtain ⟨w, hloop, hmore', hadv', hdraw'⟩ := decodeCodes_reached codes (hstart.painted [p0]) hcodes hneed
    ((hstart.painted_pending (cs := [p0]) hpix).trans hmore) (s.npix - codes.length)
  rw [foldl_coded_beginning s f tr st p0 codes u w hpix] at hloop hmore' hdraw'
  have hlen : codes.length + (s.npix - codes.length) = s.npix := by
    have := hneed.length_le hcodes
    omega
  rw [hlen] at hloop
  have hfrom : Advanced s u := ⟨hadv.ok, hadv.start, hadv.rend, hadv.cursor⟩
  refine ⟨w, ?_, hmore', hfrom.trans_of_bu rfl hadv', hdraw'⟩
  rw [decodeStripe]
  simp only [EStateM.run_bind, beginStripe_run, EStateM.run_get]
  rw [show (s.setSel { s.sel with stripe := st }).setDp { s.dp with fam := f, tr := tr, inc := .down, run := 0 } =
    s.beginning f tr st from rfl, hfirst]
  exact hloop

/-- A stripe decoder whose codes cover the stripe ends after them (R79, R132, R142). -/
theorem decodeStripe_covered {s : State} {f : Family} (tr : Bool) {st : Nat} {p0 : Byte} {codes : List Instr}
    {more : List Bool} (hready : s.StripeReady f st codes) (hcovers : Covers (s.npix - 1) codes)
    (hp : s.pending = streamOf s.dp.shr p0 codes ++ more) :
    ∃ u, (decodeStripe st f tr).run s = .ok () (s.afterCodes f tr st p0 codes u) ∧
      (s.afterCodes f tr st p0 codes u).pending = more ∧ Advanced s u := by
  obtain ⟨hall, hlast⟩ := hcovers
  obtain ⟨u, hdecode, hmore, hadv, _⟩ := decodeStripe_reached tr hready (.inr hlast) hp
  have hdone : (s.afterCodes f tr st p0 codes u).pixelsLeft = false := by
    refine decide_eq_false ?_
    show ¬ min s.npix (1 + pixelCount codes) < s.npix
    omega
  exact ⟨u, hdecode.trans (whileUpTo_done _ _ hdone), hmore, hadv⟩

/-- Settles O36. -/
theorem stripeDecoders : Obligations.StripeDecoders := by
  intro s f tr st p0 codes more hready hcovers hp
  obtain ⟨u, hdecode, hmore, hadv⟩ := decodeStripe_covered tr hready hcovers hp
  have hcursor := hadv.cursor
  have hpending : (s.setBu u).pending.length = more.length := by
    rw [← hmore, State.pending_length, State.pending_length]
    rfl
  rw [hpending, hp, List.length_append] at hcursor
  refine ⟨u, ?_, hmore, hadv.start, hadv.rend, by omega, fun a ha => ?_⟩
  · rw [exec_decoderInstr]
    exact runUnit_ok hdecode
  · refine State.putColors_read_other _ fun j _ hj => ha j ?_
    have := List.length_take_le s.npix (p0 :: paint p0 .down codes)
    omega

/-! ## Type bytes -/

theorem exec_typeInstr (f : Family) (tcap : Bool) (shr : ShiftWidth) (s : State) :
    exec (typeInstr f tcap shr) s = runUnit (dispatchType f tcap shr) s := by
  cases f <;> cases tcap <;> cases shr <;> rfl

/-- The dispatch points the unpacker behind the type byte and runs the family's decoder on the stripe in `S` (R170, R175). -/
theorem dispatchType_run (f : Family) (tcap : Bool) (shr : ShiftWidth) (s : State) :
    (dispatchType f tcap shr).run s =
      (decodeStripe s.sel.stripe f (tcap && s.regs.transpEn)).run (s.dispatched tcap shr) := by
  have hfamily := congrArg (fun x : Act Unit => x.run (s.dispatched tcap shr)) (decodeFamily_eq f (tcap && s.regs.transpEn))
  exact hfamily

/-- Settles O38. -/
theorem typeBytesDispatch : Obligations.TypeBytesDispatch := by
  intro s f tcap shr p0 codes more hready hcovers hp
  obtain ⟨u, hdecode, hmore, _⟩ := decodeStripe_covered (tcap && s.regs.transpEn) hready hcovers hp
  refine ⟨u, ?_, hmore⟩
  rw [exec_typeInstr]
  exact runUnit_ok ((dispatchType_run f tcap shr s).trans hdecode)

end Sys2Proof.Machine

namespace Sys2Proof.Machine

/-! ## The Bit Packer's operations as instructions -/

theorem runUnit_refuse {body : Act Unit} {s t : State} {r : Refusal} (h : body.run s = .error (.refuse r) t) :
    runUnit body s = .refused r := by
  simp [runUnit, h, stopped]

theorem runUnit_packerWrite {s : State} (hp : s.bp.ok) (v : Byte) {n : Nat} (hn : 1 ≤ n ∧ n ≤ 8) :
    runUnit (packerWrite v n) s = .next (s.setBp (s.bp.writeNbits v n)) := by
  refine runUnit_ok (u := ()) ?_
  rw [packerWrite_run, if_pos hn, if_pos hp.1]

theorem runUnit_packerWrite_bitCount {n : Nat} (hn : ¬ (1 ≤ n ∧ n ≤ 8)) (v : Byte) (s : State) :
    runUnit (packerWrite v n) s = .refused .bitCount := by
  refine runUnit_refuse (t := s) ?_
  rw [packerWrite_run, if_neg hn]

theorem runUnit_packerWrite_full {s : State} (hfull : 7 < s.bp.wcnt) (v : Byte) {n : Nat} (hn : 1 ≤ n ∧ n ≤ 8) :
    runUnit (packerWrite v n) s = .refused .packerFull := by
  refine runUnit_refuse (t := s) ?_
  rw [packerWrite_run, if_pos hn, if_neg (not_le.mpr hfull)]

theorem readNbits_bitCount {n : Nat} (hn : ¬ (1 ≤ n ∧ n ≤ 8)) (s : State) :
    (readNbits n).run s = .error (.refuse .bitCount) s := by
  rw [readNbits, if_neg hn]
  rfl

/-- Settles O26: the count is tested before the room in the packer, and before any fill of the unpacker. -/
theorem packerAndUnpackerRefusals : Obligations.PackerAndUnpackerRefusals := by
  intro s v n
  refine ⟨fun hcount => ?_, fun hfull => ⟨fun h1 h8 => ?_, fun b => ?_, ?_⟩⟩
  · have hn : ¬ (1 ≤ n.toNat ∧ n.toNat ≤ 8) := by omega
    refine ⟨runUnit_packerWrite_bitCount hn v s, runUnit_refuse (t := s) ?_⟩
    rw [EStateM.run_bind, readNbits_bitCount hn]
  · exact runUnit_packerWrite_full hfull v ⟨h1, h8⟩
  · exact runUnit_packerWrite_full hfull _ (by omega)
  · exact runUnit_packerWrite_full hfull v (by omega)

theorem exec_bpWriteNbits {s : State} (hp : s.bp.ok) {w : Byte × BitVec 4} (hw : 1 ≤ w.2.toNat ∧ w.2.toNat ≤ 8) :
    exec (.bpWriteNbits w.1 w.2) s = .next (s.setBp (s.bp.writeNbits w.1 w.2.toNat)) :=
  runUnit_packerWrite hp w.1 hw

theorem exec_bpFlush {s : State} (hp : s.bp.ok) :
    exec .bpFlush s = .next (s.setBp { wacc := 0, wcnt := 0, wout := packBits s.bp.bits }) := by
  rw [← Packer.flush_eq hp]
  rfl

/-- Settles O24. -/
theorem packerWritesBits : Obligations.PackerWritesBits := by
  refine fun s => ⟨rfl, fun hp => ⟨fun v n h1 h8 => ?_, fun b => ?_, fun v => ?_, exec_bpFlush hp⟩⟩
  · exact ⟨_, exec_bpWriteNbits hp (w := (v, n)) ⟨h1, h8⟩, Packer.writeNbits_spec hp v h8⟩
  · exact ⟨_, runUnit_packerWrite hp _ (by omega), Packer.writeBit_spec hp b⟩
  · exact ⟨_, runUnit_packerWrite hp v (by omega), Packer.writeNbits_spec hp v le_rfl⟩

/-! ## A sequence of writes -/

/-- The counts of a list of writes are those that R103 allows. -/
abbrev WriteCounts (ws : List (Byte × BitVec 4)) : Prop := ∀ w ∈ ws, 1 ≤ w.2.toNat ∧ w.2.toNat ≤ 8

/-- The instructions of a list of writes (R103). -/
abbrev writeInstrs (ws : List (Byte × BitVec 4)) : List Instr := ws.map fun w => .bpWriteNbits w.1 w.2

theorem runAll_next {i : Instr} {s t : State} (h : exec i s = .next t) (is : List Instr) :
    runAll (i :: is) s = runAll is t := by
  rw [runAll, h]

theorem writtenBits_cons (w : Byte × BitVec 4) (ws : List (Byte × BitVec 4)) :
    writtenBits (w :: ws) = bitsOf w.2.toNat w.1.toNat ++ writtenBits ws := List.flatMap_cons

theorem writtenBits_length (ws : List (Byte × BitVec 4)) :
    (writtenBits ws).length = (ws.map fun w => w.2.toNat).sum := by
  simp only [writtenBits, List.length_flatMap, bitsOf_length]

/-- Writes append their bits to those held, whatever is run after them (R103). -/
theorem runAll_writes {ws : List (Byte × BitVec 4)} (hws : WriteCounts ws) {s : State} (hp : s.bp.ok) (is : List Instr) :
    ∃ p : Packer, runAll (writeInstrs ws ++ is) s = runAll is (s.setBp p) ∧ p.ok ∧ p.bits = s.bp.bits ++ writtenBits ws := by
  induction ws generalizing s with
  | nil => exact ⟨s.bp, rfl, hp, (List.append_nil _).symm⟩
  | cons w ws ih =>
    obtain ⟨hw, hrest⟩ := List.forall_mem_cons.mp hws
    obtain ⟨hok, hbits⟩ := Packer.writeNbits_spec hp w.1 hw.2
    obtain ⟨p, hrun, hpok, hpbits⟩ := ih hrest (s := s.setBp (s.bp.writeNbits w.1 w.2.toNat)) hok
    refine ⟨p, (runAll_next (exec_bpWriteNbits hp hw) _).trans hrun, hpok, hpbits.trans ?_⟩
    rw [State.setBp_bp, hbits, writtenBits_cons, List.append_assoc]

/-- The packer after `BP.INIT` and some writes holds the bits written (R101, R103). -/
theorem runAll_init_writes {ws : List (Byte × BitVec 4)} (hws : WriteCounts ws) (s : State) (is : List Instr) :
    ∃ p : Packer, runAll (.bpInit :: (writeInstrs ws ++ is)) s = runAll is (s.setBp p) ∧ p.ok ∧ p.bits = writtenBits ws :=
  runAll_writes hws (s := s.setBp Packer.init) Packer.init_ok is

theorem packBits_length (bits : List Bool) : (packBits bits).length = (bits.length + 7) / 8 := packChunks_length _ _

theorem Packer.bits_length (p : Packer) : p.bits.length = 8 * p.wout.length + p.wcnt := by
  rw [Packer.bits, List.length_append, streamBits_length, bitsOf_length]

/-- Settles O25: at most 7 bits are buffered, so the whole bytes and the rest are quotient and remainder. -/
theorem packerLengths : Obligations.PackerLengths := by
  intro s ws hws
  obtain ⟨p, hrun, hok, hbits⟩ := runAll_init_writes hws s []
  rw [List.append_nil] at hrun
  have hlen := p.bits_length
  rw [hbits, writtenBits_length] at hlen
  have hcnt := hok.1
  refine ⟨s.setBp p, _, hrun, ?_, ?_, exec_bpFlush hok, ?_⟩
  · show p.wout.length = _
    omega
  · show p.wcnt = _
    omega
  · show (packBits p.bits).length = _
    rw [packBits_length, hbits, writtenBits_length]

/-! ## Reading what was written -/

/-- A number below `2 ^ m` has zero bits from bit `m` on. -/
theorem bitsOf_pad {m n v : Nat} (hv : v < 2 ^ m) (h : m ≤ n) : bitsOf n v = bitsOf m v ++ List.replicate (n - m) false := by
  have hparts := bitsOf_parts (n - m) (natOfBits []) hv
  have hzeros := bitsOf_natOfBits [] (n - m)
  rw [List.length_nil, Nat.zero_add, List.nil_append] at hzeros
  rwa [Nat.add_sub_cancel' h, hzeros, natOfBits, Nat.mul_zero, Nat.add_zero] at hparts

/-- The bytes packed from a packer carry the bits it holds and a pad of fewer than 8 zero bits (R79, R105). -/
theorem streamBits_packBits_zeros {p : Packer} (hp : p.ok) :
    ∃ k ≤ 7, streamBits (packBits p.bits) = p.bits ++ List.replicate k false := by
  obtain ⟨hcnt, hacc⟩ := hp
  have hbyte : p.wacc.toNat < 2 ^ 8 := hacc.trans_le (Nat.pow_le_pow_right Nat.two_pos (by omega))
  rw [Packer.bits, packBits_streamBits_append, packBits_bitsOf hcnt hacc, streamBits_append]
  split
  · next hpos =>
    refine ⟨8 - p.wcnt, by omega, ?_⟩
    rw [streamBits_cons, BitVec.toNat_ofNat, Nat.mod_eq_of_lt hbyte, bitsOf_pad hacc (by omega), List.append_assoc,
      List.append_assoc]
    exact congrArg _ (congrArg _ (List.append_nil _))
  · next hzero =>
    refine ⟨0, by omega, ?_⟩
    rw [Nat.le_zero.mp (not_lt.mp hzero), List.replicate_zero, List.append_nil]
    rfl

/-- Reads of the counts of some writes return them where their bits are pending (R108, R110). -/
theorem readsBack_pending {ws : List (Byte × BitVec 4)} (hws : WriteCounts ws) {s : State} (hs : s.Readable)
    {more : List Bool} (hp : s.pending = writtenBits ws ++ more) :
    ∃ u, readsBack ws s (s.setBu u) ∧ (s.setBu u).pending = more := by
  induction ws generalizing s with
  | nil => exact ⟨s.bu, rfl, hp⟩
  | cons w ws ih =>
    obtain ⟨⟨h1, h8⟩, hrest⟩ := List.forall_mem_cons.mp hws
    rw [writtenBits_cons, List.append_assoc] at hp
    have hlen : w.2.toNat ≤ s.pending.length := by
      rw [hp, List.length_append, bitsOf_length]
      omega
    have hcount : w.2 = BitVec.ofNat 4 w.2.toNat := by rw [BitVec.ofNat_toNat, BitVec.setWidth_eq]
    obtain ⟨hread, _⟩ := unpackerReadsBits s w.2.toNat (.buReadNbits w.2) hs.ok hs.running hs.inSpace
      (.inr ⟨h1, h8, congrArg Instr.buReadNbits hcount⟩)
    obtain ⟨u, hexec, hok, hresult, hpending, _, _, hrend⟩ := hread hlen
    rw [hp, List.take_left' (bitsOf_length _ _), natOfBits_bitsOf] at hresult
    rw [hp, List.drop_left' (bitsOf_length _ _)] at hpending
    obtain ⟨u', hback, hmore⟩ := ih hrest (s := s.setBu u) ⟨hok, hs.running, hrend.trans_le hs.inSpace⟩ hpending
    exact ⟨u', ⟨u, hexec, hresult, hback⟩, hmore⟩

/-- `BU.INIT` over bytes in the space leaves exactly their bits pending (R106). -/
theorem exec_buInit_bytes {s : State} (hrun : s.Running) {start : Addr} {bytes : List Byte}
    (hspace : start.toNat + bytes.length ≤ Config.addrSpace) (hbytes : s.mem.bytes start.toNat bytes.length = bytes) :
    ∃ t, exec (.buInit start (BitVec.ofNat _ (start.toNat + bytes.length))) s = .next t ∧ t.Readable ∧
      t.pending = streamBits bytes := by
  have hstop : (BitVec.ofNat (Config.aw + 1) (start.toNat + bytes.length)).toNat = start.toNat + bytes.length := by
    rw [Config.addrSpace_eq] at hspace
    exact Nat.mod_eq_of_lt (by show _ < 2 ^ 33; omega)
  refine ⟨_, (unpackerInitAndFill s).1 start _, ⟨Unpacker.init_ok _ _ _, hrun, hstop.trans_le hspace⟩, ?_⟩
  rw [State.pending, hstop]
  show [] ++ streamBits (s.mem.bytes start.toNat (start.toNat + bytes.length - start.toNat)) = _
  rw [Nat.add_sub_cancel_left, hbytes, List.nil_append]

/-- Settles O29: the bytes written carry the bits written, then a pad of at most 7 zero bits; reads take the former and leave
the latter. -/
theorem readsMirrorWrites : Obligations.ReadsMirrorWrites := by
  intro s r ws start hws hspace hbytes hrun
  obtain ⟨p, hwrites, hok, hbits⟩ := runAll_init_writes hws s [.bpFlush]
  obtain ⟨k, hk, hpad⟩ := streamBits_packBits_zeros hok
  rw [hbits] at hpad
  obtain ⟨r₁, hinit, hr₁, hpending⟩ := exec_buInit_bytes hrun hspace hbytes
  obtain ⟨u, hback, hmore⟩ := readsBack_pending hws hr₁ (hpending.trans hpad)
  have hflush := exec_bpFlush (s := s.setBp p) hok
  rw [State.setBp_bp, hbits] at hflush
  refine ⟨_, r₁, r₁.setBu u, hwrites.trans (runAll_next hflush []), rfl, hinit, hback, ?_, ?_⟩
  · rw [hmore, List.length_replicate]
    exact hk
  · rw [hmore]
    exact fun b hb => List.eq_of_mem_replicate hb

/-! ## Stripe decoders that end with an error -/

/-- A read of more bits than remain raises `ERR_TRUNC` in every state: there is nothing to fill from (R108). -/
theorem readNbits_short {s : State} {n : Nat} (hn : 1 ≤ n ∧ n ≤ 8) (hlen : s.pending.length < n) :
    (readNbits n).run s = .error (.raise .trunc) s := by
  rw [State.pending_length] at hlen
  have hfill : unpackerFill.run s = .ok () s := by rw [unpackerFill_run, if_neg (by omega)]
  rw [readNbits_run hn hfill, if_pos (by omega)]

/-- A stripe decoder whose first pixel is missing ends before it puts anything (R214). -/
theorem decodeStripe_noFirst {s : State} (h : s.pending.length < 8) (f : Family) (tr : Bool) (st : Nat) :
    (decodeStripe st f tr).run s = .error (.raise .trunc) (s.beginning f tr st) := by
  have hread : (readNbits 8).run (s.beginning f tr st) = .error (.raise .trunc) (s.beginning f tr st) :=
    readNbits_short (by omega) h
  have hbegin : (beginStripe st f tr).run s = .ok () (s.beginning f tr st) := beginStripe_run st f tr s
  rw [decodeStripe, decodeFirst]
  simp only [EStateM.run_bind, hbegin, hread]

/-- The code at the cursor is what a reader of the pending bits finds, or `ERR_TRUNC` where it finds them cut off (R88). -/
theorem fetchCode_follows (f : Family) {s : State} (hs : s.Readable) :
    (∀ i more, decodeBits (codeFormat f) s.dp.shr s.pending = .ok (i, more) →
      ∃ u, (fetchCode f).run s = .ok i (s.setBu u) ∧ (s.setBu u).pending = more ∧ Advanced s u) ∧
    (decodeBits (codeFormat f) s.dp.shr s.pending = .error .truncated →
      ∃ u, (fetchCode f).run s = .error (.raise .trunc) (s.setBu u)) := by
  cases f
  · exact Follows.acode s.dp.shr s hs
  · exact Follows.acode s.dp.shr s hs
  · exact Follows.bcode s.dp.shr s hs
  · exact Follows.bcode s.dp.shr s hs

/-- A code that the source does not hold whole (R214). -/
theorem decodeCode_cut {f : Family} {s : State} (hs : s.Readable)
    (h : decodeBits (codeFormat f) s.dp.shr s.pending = .error .truncated) :
    ∃ u, (decodeCode f).run s = .error (.raise .trunc) (s.setBu u) := by
  obtain ⟨u, hu⟩ := (fetchCode_follows f hs).2 h
  refine ⟨u, ?_⟩
  rw [decodeCode_eq, EStateM.run_bind, hu]

/-- The reserved run of no pixels (R134). -/
theorem decodeCode_zeroRun {f : Family} {s : State} (hs : s.Readable) (hf : codeFormat f = .acode) {rest : List Bool}
    (hp : s.pending = encodeBits s.dp.shr (.aRun 0) ++ rest) :
    ∃ u, (decodeCode f).run s = .error (.raise .format) (s.setBu u) := by
  have hdecode : decodeBits (codeFormat f) s.dp.shr s.pending = .ok (.aRun 0, rest) := by
    rw [hp, hf]
    exact decodeBits_encodeBits (.inr rfl) rest
  obtain ⟨u, hu, _⟩ := (fetchCode_follows f hs).1 _ _ hdecode
  refine ⟨u, ?_⟩
  rw [decodeCode_eq, EStateM.run_bind, hu]
  rfl

/-- Codes that leave a pixel are all needed. -/
theorem Needed.of_lt {left : Nat} {codes : List Instr} (h : pixelCount codes < left) : Needed left codes := by
  refine .inr (lt_of_le_of_lt ?_ h)
  exact ((List.dropLast_sublist codes).map codePixels).sum_le_sum fun _ _ => Nat.zero_le _

/-- A stripe decoder with pixels left after some codes ends as the code after them does, and keeps the pixels of those codes
(R178, R212). -/
theorem decodeStripe_stopped {s : State} {f : Family} (tr : Bool) {st : Nat} {p0 : Byte} {codes : List Instr}
    {more : List Bool} {e : Err} (hready : s.StripeReady f st codes) (hleft : pixelCount codes < s.npix - 1)
    (hp : s.pending = streamOf s.dp.shr p0 codes ++ more)
    (hstop : ∀ t : State, t.Readable → t.dp.shr = s.dp.shr → t.pending = more →
      ∃ u, (decodeCode f).run t = .error (.raise e) (t.setBu u)) :
    ∃ u, (decodeStripe st f tr).run s = .error (.raise e) (s.afterCodes f tr st p0 codes u) := by
  have hneed := Needed.of_lt hleft
  obtain ⟨u, hdecode, hmore, _, hdraw⟩ := decodeStripe_reached tr hready hneed hp
  obtain ⟨_, _, _, _, _, hcodes⟩ := hready
  obtain ⟨w, hcode⟩ := hstop _ hdraw.readable rfl hmore
  have hpixel : (s.afterCodes f tr st p0 codes u).pixelsLeft = true := by
    refine decide_eq_true ?_
    show min s.npix (1 + pixelCount codes) < s.npix
    omega
  obtain ⟨n, hn⟩ : ∃ n, s.npix - codes.length = n + 1 :=
    Nat.exists_eq_add_of_le' (by have := hneed.length_le hcodes; omega)
  refine ⟨w, ?_⟩
  rw [hdecode, hn, whileUpTo_step _ _ hpixel, EStateM.run_bind, hcode]
  rfl

/-- Settles O37: the code after those put is cut off, or a run of no pixels. -/
theorem stripeDecodersStopOnErrors : Obligations.StripeDecodersStopOnErrors := by
  refine ⟨fun s f tr st h => ?_, fun s f tr st p0 codes more hready hleft hp => ⟨fun hcut => ?_, fun rest hf hzero => ?_⟩⟩
  · rw [exec_decoderInstr]
    exact runUnit_raise (decodeStripe_noFirst h f tr st.toNat)
  · obtain ⟨u, hu⟩ := decodeStripe_stopped tr hready hleft hp fun t ht hshr hmore =>
      decodeCode_cut ht (by rw [hshr, hmore, hcut])
    exact ⟨u, by rw [exec_decoderInstr]; exact runUnit_raise hu⟩
  · obtain ⟨u, hu⟩ := decodeStripe_stopped tr hready hleft hp fun t ht hshr hmore =>
      decodeCode_zeroRun ht hf (by rw [hshr, hmore, hzero])
    exact ⟨u, by rw [exec_decoderInstr]; exact runUnit_raise hu⟩

end Sys2Proof.Machine

namespace Sys2Proof

/-! ## Shift widths as numbers -/

theorem ShiftWidth.toNat_next (w : ShiftWidth) : w.next.toNat = min 8 (w.toNat + 1) := by cases w <;> rfl

theorem ShiftWidth.eq_of_toNat_eq {v w : ShiftWidth} (h : v.toNat = w.toNat) : v = w :=
  Option.some_injective _ ((Machine.widthOfNat_eq_some.mpr h).symm.trans (Machine.widthOfNat_eq_some.mpr rfl)).symm

theorem ShiftWidth.eq_of_le_iff {v w : ShiftWidth} (h : ∀ u : ShiftWidth, v.toNat ≤ u.toNat ↔ w.toNat ≤ u.toNat) : v = w :=
  eq_of_toNat_eq (le_antisymm ((h w).mpr le_rfl) ((h v).mp le_rfl))

/-- `LMASK` keeps exactly the values of `SHR` bits (R120). -/
theorem ShiftWidth.eq_and_mask_iff (w : ShiftWidth) (v : Byte) : v = v &&& w.mask ↔ v.toNat < 2 ^ w.toNat := by
  have hpow : 2 ^ w.toNat ≤ 2 ^ 8 := Nat.pow_le_pow_right Nat.two_pos (Machine.ShiftWidth.toNat_bounds w).2
  have hmask : w.mask.toNat = 2 ^ w.toNat - 1 := by
    rw [mask, BitVec.toNat_ofNat, Nat.mod_eq_of_lt (by have := Nat.two_pow_pos w.toNat; omega)]
  rw [← BitVec.toNat_inj, BitVec.toNat_and, hmask, Nat.and_two_pow_sub_one_eq_mod, eq_comm,
    Nat.mod_eq_iff_lt (Nat.two_pow_pos _).ne']

end Sys2Proof

namespace Sys2Proof.Machine

/-! ## The least width

A width is known by which widths it is at most; so the scan of R120 and the closed form of R121 are both read as lower bounds. -/

/-- Every value of the list fits the width (R121). -/
abbrev WidthHolds (w : ShiftWidth) (ps : List Byte) : Prop := ∀ v ∈ ps, v.toNat < 2 ^ w.toNat

theorem WidthHolds.mono {w u : ShiftWidth} {ps : List Byte} (h : WidthHolds w ps) (hle : w.toNat ≤ u.toNat) : WidthHolds u ps :=
  fun v hv => (h v hv).trans_le (Nat.pow_le_pow_right Nat.two_pos hle)

theorem WidthHolds.cons_iff {w : ShiftWidth} {v : Byte} {ps : List Byte} :
    WidthHolds w (v :: ps) ↔ v.toNat < 2 ^ w.toNat ∧ WidthHolds w ps := List.forall_mem_cons

/-- A width that holds the list while the next smaller one does not is the least. -/
theorem WidthHolds.least {w below : ShiftWidth} {ps : List Byte} (hw : WidthHolds w ps) (hbelow : ¬ WidthHolds below ps)
    (hnext : w.toNat = below.toNat + 1) (u : ShiftWidth) : w.toNat ≤ u.toNat ↔ WidthHolds u ps :=
  ⟨hw.mono, fun hu => not_lt.mp fun hlt => hbelow (hu.mono (by omega))⟩

theorem leastWidth_le_iff (ps : List Byte) (u : ShiftWidth) : (leastWidth ps).toNat ≤ u.toNat ↔ WidthHolds u ps := by
  simp only [leastWidth, List.all_eq_true, decide_eq_true_eq]
  split_ifs with h4 h5 h6 h7
  · exact ⟨WidthHolds.mono (w := .w4) h4, fun _ => by cases u <;> decide⟩
  · exact WidthHolds.least (w := .w5) (below := .w4) h5 h4 rfl u
  · exact WidthHolds.least (w := .w6) (below := .w5) h6 h5 rfl u
  · exact WidthHolds.least (w := .w7) (below := .w6) h7 h6 rfl u
  · exact WidthHolds.least (w := .w8) (below := .w7) (fun v _ => v.isLt) h7 rfl u

/-- Growing a width gives the least one that is no smaller and holds the pixel (R120 corner case (a)). -/
theorem growWidth_le_iff {n : Nat} {w : ShiftWidth} (hn : 8 ≤ w.toNat + n) (v : Byte) (u : ShiftWidth) :
    (growWidth n w v).toNat ≤ u.toNat ↔ w.toNat ≤ u.toNat ∧ v.toNat < 2 ^ u.toNat := by
  have hfits {w : ShiftWidth} (hv : v.toNat < 2 ^ w.toNat) :
      w.toNat ≤ u.toNat ↔ w.toNat ≤ u.toNat ∧ v.toNat < 2 ^ u.toNat :=
    ⟨fun h => ⟨h, hv.trans_le (Nat.pow_le_pow_right Nat.two_pos h)⟩, And.left⟩
  induction n generalizing w with
  | zero => exact hfits (v.isLt.trans_le (Nat.pow_le_pow_right Nat.two_pos hn))
  | succ n ih =>
    simp only [growWidth, ShiftWidth.eq_and_mask_iff]
    split
    · next hv => exact hfits hv
    · next hv =>
      have hu : v.toNat < 2 ^ u.toNat → w.toNat < u.toNat := fun h =>
        (Nat.pow_lt_pow_iff_right Nat.one_lt_two).mp ((not_lt.mp hv).trans_lt h)
      have hnext := w.toNat_next
      have hmax := (ShiftWidth.toNat_bounds u).2
      have hgrow := ih (w := w.next) (by omega)
      omega

theorem growWidth_w8 (n : Nat) (v : Byte) : growWidth n .w8 v = .w8 := by
  cases n with
  | zero => rfl
  | succ n => exact if_pos ((ShiftWidth.eq_and_mask_iff .w8 v).mpr v.isLt)

theorem foldl_growWidth_le_iff (ps : List Byte) (w u : ShiftWidth) :
    (ps.foldl (growWidth 4) w).toNat ≤ u.toNat ↔ w.toNat ≤ u.toNat ∧ WidthHolds u ps := by
  induction ps generalizing w with
  | nil => simp [WidthHolds]
  | cons p ps ih =>
    have hp := growWidth_le_iff (w := w) (n := 4) (by cases w <;> decide) p u
    rw [List.foldl_cons, ih, hp, and_assoc, WidthHolds.cons_iff]

/-- From width 4 the scan of a list ends at the closed form of R121. -/
theorem foldl_growWidth_eq_leastWidth (ps : List Byte) : ps.foldl (growWidth 4) .w4 = leastWidth ps :=
  ShiftWidth.eq_of_le_iff fun u => by
    rw [foldl_growWidth_le_iff, leastWidth_le_iff, and_iff_right (by cases u <;> decide)]

/-! ## `COMPUTE_SHR` -/

/-- The scan leaves in `SHR` the width grown over the pixels in turn: stopping at width 8 loses nothing (R120). -/
theorem scanWidth_run {s : State} {n k : Nat} (h : ∀ j, k ≤ j → j < k + n → s.reaches (s.pixelAddr .a j) = true) :
    (scanWidth n k).run s = .ok () (s.setDp { s.dp with
      shr := ((List.range' k n).map fun j => s.mem.read (s.pixelAddr .a j)).foldl (growWidth 4) s.dp.shr }) := by
  induction n generalizing s k with
  | zero => rfl
  | succ n ih =>
    have hread : (readByte (s.pixelAddr .a k)).run s = .ok (s.mem.read (s.pixelAddr .a k)) s := by
      rw [readByte_run, if_pos (h k le_rfl (by omega))]
    rw [scanWidth, List.range'_succ, List.map_cons, List.foldl_cons]
    simp only [EStateM.run_bind, EStateM.run_get, hread, setDp_run]
    split
    · next hw =>
      have hw8 : growWidth 4 s.dp.shr (s.mem.read (s.pixelAddr .a k)) = .w8 := hw
      rw [hw8, List.foldl_fixed' (growWidth_w8 4)]
      rfl
    · exact ih fun j hj hj' => h j (by omega) (by omega)

theorem computeShr_run {s : State} {st : Nat} (hr : s.StripeReachable .a st) :
    (computeShr st).run s = .ok () ((s.onStripe st).setDp { s.dp with
      shr := leastWidth (stripeOf s.picture s.regs.height.toNat .a st).tail }) := by
  obtain ⟨hrun, haddr⟩ := hr
  have hscan : (scanWidth (s.npix - 1) 1).run ((s.onStripe st).setDp { s.dp with shr := .w4 }) = _ :=
    scanWidth_run fun j _ hj => (State.reaches_iff _ _).mpr ⟨hrun, haddr j (by omega)⟩
  have htail : (List.range s.npix).tail = List.range' 1 (s.npix - 1) := by
    rw [List.range_eq_range', List.tail_range']
  rw [stripeOf_picture, ← List.map_tail, htail, ← foldl_growWidth_eq_leastWidth]
  exact hscan

/-- Settles O34. -/
theorem computeShrIsLeastWidth : Obligations.ComputeShrIsLeastWidth :=
  fun _ _ hr => runUnit_ok (computeShr_run hr)

end Sys2Proof.Machine

namespace Sys2Proof.Machine

/-! ## Where the pixels of a stripe lie -/

/-- A visiting order visits every place once (R125, R128). -/
theorem pixelPos_inj (f : Family) {height j k : Nat} (h : pixelPos f height j = pixelPos f height k) : j = k := by
  cases f
  case c =>
    obtain ⟨hrow, hcol⟩ := Prod.mk.inj h
    rw [← Nat.div_add_mod j height, ← Nat.div_add_mod k height, hrow, hcol]
  all_goals
    obtain ⟨hrow, hcol⟩ := Prod.mk.inj h
    omega

/-- With a stride of 8 or more the places of a stripe are apart (R51). -/
theorem State.stripeAddr_inj {s : State} (hstride : 8 ≤ s.regs.stride.toNat) {row col row' col' : Nat} (hcol : col < 8)
    (hcol' : col' < 8) (h : s.stripeAddr row col = s.stripeAddr row' col') : (row, col) = (row', col') := by
  rw [State.stripeAddr, State.stripeAddr] at h
  have hsum : s.regs.stride.toNat * row + col = s.regs.stride.toNat * row' + col' := by
    rw [Nat.mul_comm _ row, Nat.mul_comm _ row']
    omega
  have hrow := congrArg (· / s.regs.stride.toNat) hsum
  have hrest := congrArg (· % s.regs.stride.toNat) hsum
  simp only [Nat.mul_add_div (show 0 < s.regs.stride.toNat by omega), Nat.div_eq_of_lt (hcol.trans_le hstride),
    Nat.div_eq_of_lt (hcol'.trans_le hstride), Nat.add_zero] at hrow
  simp only [Nat.mul_add_mod, Nat.mod_eq_of_lt (hcol.trans_le hstride), Nat.mod_eq_of_lt (hcol'.trans_le hstride)] at hrest
  rw [hrow, hrest]

/-- With a stride of 8 or more the pixels of a stripe are apart (R51, R125, R128). -/
theorem State.pixelAddr_inj {s : State} (hstride : 8 ≤ s.regs.stride.toNat) {f : Family} {j k : Nat} (hj : j < s.npix)
    (hk : k < s.npix) (h : s.pixelAddr f j = s.pixelAddr f k) : j = k :=
  pixelPos_inj f (State.stripeAddr_inj hstride (pixelPos_bounds f hj).2 (pixelPos_bounds f hk).2 h)

/-- A colour put at a pixel is read back there, unless it is skipped (R177). -/
theorem State.putColors_read {s : State} {f : Family} {tr : Bool} {st k i : Nat} {cs : List Byte} {c : Byte} {m : Memory}
    (hm : Memory.risingFrom 0 m = true) (hstride : 8 ≤ s.regs.stride.toNat) (hroom : k + cs.length ≤ s.npix)
    (hc : cs[i]? = some c) : (s.putColors f tr st k cs m).read ((s.onStripe st).pixelAddr f (k + i)) =
      if tr = true ∧ c = s.regs.transpColor then m.read ((s.onStripe st).pixelAddr f (k + i)) else c + s.regs.palmod := by
  have happart {j j' : Nat} (hj : j < s.npix) (hj' : j' < s.npix) (hne : j ≠ j') :
      (s.onStripe st).pixelAddr f j ≠ (s.onStripe st).pixelAddr f j' :=
    mt (State.pixelAddr_inj (s := s.onStripe st) hstride hj hj') hne
  have hi : i < cs.length := (List.getElem?_eq_some_iff.mp hc).1
  induction cs generalizing k i m with
  | nil => cases hc
  | cons x cs ih =>
    rw [List.length_cons] at hroom hi
    rw [State.putColors]
    cases i with
    | zero =>
      obtain rfl : x = c := Option.some.inj hc
      rw [Nat.add_zero, State.putColors_read_other _ fun j hj hj' => happart (by omega) (by omega) (by omega)]
      simp only [Bool.and_eq_true, decide_eq_true_eq]
      split
      · rfl
      · exact Memory.read_write_same hm _ _
    | succ i =>
      rw [List.getElem?_cons_succ] at hc
      have hother (v : Byte) : (m.write ((s.onStripe st).pixelAddr f k) v).read ((s.onStripe st).pixelAddr f (k + (i + 1))) =
          m.read ((s.onStripe st).pixelAddr f (k + (i + 1))) :=
        Memory.read_write_other m v (happart (by omega) (by omega) (by omega))
      rw [← Nat.add_assoc, Nat.add_right_comm] at hother ⊢
      rw [ih (by split; exacts [hm, Memory.risingFrom_write hm (Nat.zero_le _)]) (by omega) hc (by omega)]
      split
      · split
        · rfl
        · exact hother _
      · rfl

/-- Colours put on a whole stripe, none skipped and no `PALMOD` added, are the pixels of the stripe (R177). -/
theorem stripeOf_putColors {s t : State} {f : Family} {st : Nat} {cs : List Byte} (hs : s.Inv)
    (hstride : 8 ≤ s.regs.stride.toNat) (hpalmod : s.regs.palmod = 0) (hlen : cs.length = s.npix) (hregs : t.regs = s.regs)
    (hmem : t.mem = s.putColors f false st 0 cs s.mem) : stripeOf t.picture s.regs.height.toNat f st = cs := by
  have hrising : Memory.risingFrom 0 s.mem = true := (Bool.and_eq_true_iff.mp hs.mem).1
  rw [← hregs, stripeOf_picture]
  refine List.ext_getElem (by simp [State.npix, hlen, hregs]) fun k hk hk' => ?_
  have haddr : (t.onStripe st).pixelAddr f k = (s.onStripe st).pixelAddr f k := by
    simp only [State.pixelAddr, State.stripeAddr, State.onStripe, State.setSel_regs, State.setSel_sel, hregs]
  have hread := State.putColors_read (f := f) (tr := false) (st := st) (k := 0) hrising hstride
    (by rw [Nat.zero_add, hlen]) (List.getElem?_eq_getElem hk')
  rw [Nat.zero_add] at hread
  rw [List.getElem_map, List.getElem_range, haddr, hmem, hread, hpalmod]
  simp

end Sys2Proof.Machine

namespace Sys2Proof.Machine

/-! ## The codes of a stripe spell its pixels -/

theorem paint_length (c : Byte) (d : Dir) (codes : List Instr) : (paint c d codes).length = pixelCount codes := by
  induction codes generalizing c d with
  | nil => rfl
  | cons i codes ih => rw [paint, List.length_append, List.length_replicate, ih, pixelCount_cons]

/-- A code's colour is that of the pixels `taken` it stands for, and the codes after it spell the pixels after those. -/
theorem paint_cons {c : Byte} {d : Dir} {i : Instr} {codes : List Instr} {taken ps : List Byte}
    (htaken : List.replicate (codePixels i) (nextColor c d i).1 = taken)
    (hrest : paint (nextColor c d i).1 (nextColor c d i).2 codes = ps) : paint c d (i :: codes) = taken ++ ps := by
  rw [paint, htaken, hrest]

/-- The count of a run-length escape: at most 255, and of the colour it repeats (R83, R130). -/
theorem codePixels_aRun_of_le {m : Nat} (hm : m ≤ 255) : codePixels (.aRun (BitVec.ofNat 8 m)) = m :=
  Nat.mod_eq_of_lt (by omega)

/-- A run-length escape for some pixels of the colour spells those (R139). -/
theorem paint_run {c : Byte} {d : Dir} {p : Byte} {ps : List Byte} {codes : List Instr} {m : Nat} (hpos : 1 ≤ m)
    (hmax : m ≤ 255) (hm : m ≤ runLength c (p :: ps)) (hrest : paint c d codes = ps.drop (m - 1)) :
    paint c d (.aRun (BitVec.ofNat 8 m) :: codes) = p :: ps := by
  have htaken : List.replicate (codePixels (.aRun (BitVec.ofNat 8 m))) c = (p :: ps).take m := by
    rw [codePixels_aRun_of_le hmax, take_runLength c hm]
  have hdrop : (p :: ps).drop m = ps.drop (m - 1) := by
    rw [show m = m - 1 + 1 by omega, List.drop_succ_cons, Nat.add_sub_cancel]
  exact (paint_cons htaken (hrest.trans hdrop.symm)).trans (List.take_append_drop m (p :: ps))

/-- The codes of R130 and R131 spell the pixels after those of the last run. -/
theorem paint_codesA (escape : Bool) (d : Dir) (ps : List Byte) (skip : Nat) (c : Byte) :
    paint c d (codesA escape skip c ps) = ps.drop skip := by
  induction ps generalizing skip c with
  | nil => rw [codesA, List.drop_nil, paint]
  | cons p ps ih =>
    cases skip with
    | succ skip => rw [codesA, ih, List.drop_succ_cons]
    | zero =>
      rw [codesA, List.drop_zero]
      split
      · next hpc =>
        split
        · next hesc =>
          have hrun : 13 ≤ runLength c (p :: ps) := of_decide_eq_true (Bool.and_eq_true_iff.mp hesc).2
          exact paint_run (by omega) (min_le_right _ _) (min_le_left _ _) (ih _ c)
        · exact paint_cons (taken := [p]) (congrArg ([·]) hpc.symm) (ih 0 c)
      · split
        · have hcolor : c + BitVec.ofInt 8 (p - c).toInt = p := by
            rw [BitVec.ofInt_toInt, BitVec.add_comm, BitVec.sub_add_cancel]
          refine paint_cons (taken := [p]) (congrArg ([·]) hcolor) ?_
          rw [nextColor, hcolor]
          exact ih 0 p
        · exact paint_cons (taken := [p]) rfl (ih 0 p)

/-- The codes of R140 and R141 spell the pixels. -/
theorem paint_codesB (d : Dir) (c : Byte) (ps : List Byte) : paint c d (codesB d c ps) = ps := by
  induction ps generalizing d c with
  | nil => rfl
  | cons p ps ih =>
    rw [codesB]
    split
    · next hpc => exact paint_cons (taken := [p]) (congrArg ([·]) hpc.symm) (ih d c)
    split
    · next hstep =>
      refine paint_cons (taken := [p]) (congrArg ([·]) hstep.symm) ?_
      rw [nextColor, ← hstep]
      exact ih d p
    split
    · next hrev =>
      rw [sub_toByte_eq] at hrev
      refine paint_cons (taken := [p]) (congrArg ([·]) hrev.symm) ?_
      rw [nextColor, ← hrev]
      exact ih d.flip p
    · exact paint_cons (taken := [p]) rfl (ih .down p)

theorem paint_codesOf (f : Family) (p0 : Byte) (ps : List Byte) : paint p0 .down (codesOf f p0 ps) = ps := by
  cases f
  · exact paint_codesA true .down ps 0 p0
  · exact paint_codesA false .down ps 0 p0
  · exact paint_codesB .down p0 ps
  · exact paint_codesB .down p0 ps

/-! ## The codes of a stripe are those of its family -/

/-- The codes of R130 and R131 have operands in the range of their encodings, literals as wide as the pixels (R80 to R83). -/
theorem codesA_familyCodes (escape : Bool) (shr : ShiftWidth) (ps : List Byte) (skip : Nat) (c : Byte)
    (hps : WidthHolds shr ps) : ∀ i ∈ codesA escape skip c ps, i.format = .acode ∧ i.wf shr = true := by
  induction ps generalizing skip c with
  | nil =>
    rw [codesA]
    exact fun i hi => absurd hi List.not_mem_nil
  | cons p ps ih =>
    obtain ⟨hp, hrest⟩ := WidthHolds.cons_iff.mp hps
    cases skip with
    | succ skip =>
      rw [codesA]
      exact ih skip c hrest
    | zero =>
      rw [codesA]
      split
      · split
        · next hesc =>
          have hrun : 13 ≤ runLength c (p :: ps) := of_decide_eq_true (Bool.and_eq_true_iff.mp hesc).2
          refine List.forall_mem_cons.mpr ⟨⟨rfl, decide_eq_true ?_⟩, ih _ c hrest⟩
          have := codePixels_aRun_of_le (min_le_right (runLength c (p :: ps)) 255)
          rw [codePixels] at this
          omega
        · exact List.forall_mem_cons.mpr ⟨⟨rfl, rfl⟩, ih 0 c hrest⟩
      · next hpc =>
        split
        · next hdelta =>
          have hne : (p - c).toInt ≠ 0 := fun h0 => hpc (sub_eq_zero.mp (BitVec.eq_of_toInt_eq h0))
          exact List.forall_mem_cons.mpr ⟨⟨rfl, decide_eq_true ⟨hdelta.1, hdelta.2, hne⟩⟩, ih 0 p hrest⟩
        · exact List.forall_mem_cons.mpr ⟨⟨rfl, decide_eq_true hp⟩, ih 0 p hrest⟩

/-- The codes of R140 and R141 have operands in the range of their encodings, literals as wide as the pixels (R84 to R87). -/
theorem codesB_familyCodes (shr : ShiftWidth) (d : Dir) (c : Byte) (ps : List Byte) (hps : WidthHolds shr ps) :
    ∀ i ∈ codesB d c ps, i.format = .bcode ∧ i.wf shr = true := by
  induction ps generalizing d c with
  | nil => exact fun i hi => absurd hi List.not_mem_nil
  | cons p ps ih =>
    obtain ⟨hp, hrest⟩ := WidthHolds.cons_iff.mp hps
    rw [codesB]
    split_ifs
    · exact List.forall_mem_cons.mpr ⟨⟨rfl, rfl⟩, ih d c hrest⟩
    · exact List.forall_mem_cons.mpr ⟨⟨rfl, rfl⟩, ih d p hrest⟩
    · exact List.forall_mem_cons.mpr ⟨⟨rfl, rfl⟩, ih d.flip p hrest⟩
    · exact List.forall_mem_cons.mpr ⟨⟨rfl, decide_eq_true hp⟩, ih .down p hrest⟩

theorem codesOf_familyCodes (f : Family) {shr : ShiftWidth} (p0 : Byte) {ps : List Byte} (hps : WidthHolds shr ps) :
    FamilyCodes f shr (codesOf f p0 ps) := by
  cases f
  · exact codesA_familyCodes true shr ps 0 p0 hps
  · exact codesA_familyCodes false shr ps 0 p0 hps
  · exact codesB_familyCodes shr .down p0 ps hps
  · exact codesB_familyCodes shr .down p0 ps hps

/-- Codes of a family that spell some pixels, one at least, cover just those. -/
theorem Covers.of_pixelCount {f : Family} {shr : ShiftWidth} {codes : List Instr} {n : Nat} (hcodes : FamilyCodes f shr codes)
    (hcount : pixelCount codes = n) (hn : 1 ≤ n) : Covers n codes := by
  refine ⟨hcount.ge, ?_⟩
  rcases List.eq_nil_or_concat' codes with rfl | ⟨init, last, rfl⟩
  · exact absurd hcount (by simp [pixelCount]; omega)
  · obtain ⟨hf, hi⟩ := hcodes last (by simp)
    have hlast := codePixels_pos hf hi
    rw [pixelCount, List.map_append, List.sum_append, ← pixelCount, List.map_singleton, List.sum_singleton] at hcount
    rw [List.dropLast_concat]
    omega

/-! ## The round trip of a stripe -/

/-- The first pixel is the same in every visiting order, so the others are the same too (R125, R128). -/
theorem mem_tail_stripeOf {p : Picture} {h st : Nat} {f : Family} {v : Byte} (hv : v ∈ (stripeOf p h f st).tail) :
    v ∈ (stripeOf p h .a st).tail := by
  have htail (f : Family) : (stripeOf p h f st).tail =
      (List.range' 1 (8 * h - 1)).map fun k => p (pixelPos f h k).1 (8 * st + (pixelPos f h k).2) := by
    rw [stripeOf, ← List.map_tail, List.range_eq_range', List.tail_range']
  rw [htail, List.mem_map] at hv ⊢
  obtain ⟨k, hk, rfl⟩ := hv
  rw [List.mem_range'_1] at hk
  obtain ⟨hrow, hcol⟩ := pixelPos_bounds f (show k < 8 * h by omega)
  have hfirst : pixelPos f h 0 = pixelPos .a h 0 := by cases f <;> simp [pixelPos]
  have hplace : pixelPos .a h (8 * (pixelPos f h k).1 + (pixelPos f h k).2) = pixelPos f h k := by
    refine Prod.ext ?_ ?_
    · show (8 * (pixelPos f h k).1 + (pixelPos f h k).2) / 8 = _
      omega
    · show (8 * (pixelPos f h k).1 + (pixelPos f h k).2) % 8 = _
      omega
  have hne : 8 * (pixelPos f h k).1 + (pixelPos f h k).2 ≠ 0 := fun h0 => by
    rw [h0, ← hfirst] at hplace
    have := pixelPos_inj f hplace
    omega
  exact ⟨8 * (pixelPos f h k).1 + (pixelPos f h k).2, List.mem_range'_1.mpr ⟨by omega, by omega⟩, by rw [hplace]⟩

/-- A stripe of at least one row has a first pixel. -/
theorem stripeOf_ne_nil (p : Picture) {h : Dim} (hh : h ≠ 0) (f : Family) (st : Nat) : stripeOf p h.toNat f st ≠ [] := by
  have hrows : h.toNat ≠ 0 := fun h0 => hh (BitVec.eq_of_toNat_eq h0)
  refine List.ne_nil_of_length_pos ?_
  rw [stripeOf, List.length_map, List.length_range]
  omega

/-- Every bit string is one that a packer holds. -/
theorem exists_packer_bits (bits : List Bool) : ∃ p : Packer, p.ok ∧ p.bits = bits := by
  induction bits using List.reverseRecOn with
  | nil => exact ⟨Packer.init, Packer.init_ok, rfl⟩
  | append_singleton bits b ih =>
    obtain ⟨p, hok, rfl⟩ := ih
    exact ⟨p.writeBit b, Packer.writeBit_spec hok b⟩

/-- A stripe decoder applied to the packed codes of some pixels puts those pixels and leaves pad bits only (R126, R129). -/
theorem decode_packBits {r : State} {f : Family} {st : Dim} {p0 : Byte} {ps : List Byte}
    (hready : r.StripeReady f st.toNat []) (hstride : 8 ≤ r.regs.stride.toNat) (hpalmod : r.regs.palmod = 0)
    (hlen : ps.length + 1 = r.npix) (hps : WidthHolds r.dp.shr ps)
    (hp : r.pending = streamBits (packBits (streamOf r.dp.shr p0 (codesOf f p0 ps)))) :
    ∃ r', exec (decoderInstr f false st) r = .next r' ∧ r'.regs = r.regs ∧
      stripeOf r'.picture r.regs.height.toNat f st.toNat = p0 :: ps ∧
      r'.pending.length ≤ 7 ∧ ∀ b ∈ r'.pending, b = false := by
  obtain ⟨hinv, hrun, hheight, hend, hplace, _⟩ := hready
  obtain ⟨p, hok, hbits⟩ := exists_packer_bits (streamOf r.dp.shr p0 (codesOf f p0 ps))
  obtain ⟨pad, hpad, hstream⟩ := streamBits_packBits_zeros hok
  rw [hbits, ← hp] at hstream
  have hcodes := codesOf_familyCodes f p0 hps
  have hcount : pixelCount (codesOf f p0 ps) = r.npix - 1 := by
    rw [← paint_length p0 .down, paint_codesOf]
    omega
  have hpix : 1 ≤ r.npix - 1 := by
    have : r.regs.height.toNat ≠ 0 := fun h => hheight (BitVec.eq_of_toNat_eq h)
    rw [State.npix]
    omega
  obtain ⟨u, hdecode, hmore, _⟩ := stripeDecoders r f false st p0 _ _ ⟨hinv, hrun, hheight, hend, hplace, hcodes⟩
    (Covers.of_pixelCount hcodes hcount hpix) hstream
  refine ⟨_, hdecode, rfl, ?_, ?_, ?_⟩
  · refine stripeOf_putColors hinv hstride hpalmod hlen rfl ?_
    rw [State.afterCodes, paint_codesOf, List.take_of_length_le hlen.le]
  · rw [hmore, List.length_replicate]
    exact hpad
  · rw [hmore]
    exact fun b hb => List.eq_of_mem_replicate hb

/-- Settles O40: the encoder leaves the packed codes of the pixels, and the width of the raster order holds the pixels in every
order. -/
theorem stripeRoundTrip : Obligations.StripeRoundTrip := by
  intro s t r f st st' hheight hreach hshr henc hready hsame hstride hpalmod hwidth hp
  have hlen : (stripeOf s.picture s.regs.height.toNat f st.toNat).length = r.npix := by
    rw [stripeOf, List.length_map, List.length_range, State.npix, hsame]
  have hwide : WidthHolds r.dp.shr (stripeOf s.picture s.regs.height.toNat f st.toNat).tail := by
    rw [hwidth, hshr]
    exact fun v hv => (leastWidth_le_iff _ _).mp le_rfl v (mem_tail_stripeOf hv)
  obtain ⟨p0, ps, hpix⟩ := List.exists_cons_of_ne_nil (stripeOf_ne_nil s.picture hheight f st.toNat)
  rw [hpix] at hlen hwide ⊢
  obtain rfl : _ = t := Host.Outcome.next.inj ((stripeEncoders s f st p0 ps hheight hreach hpix).symm.trans henc)
  rw [← hwidth] at hp
  exact decode_packBits hready hstride hpalmod hlen hwide hp

end Sys2Proof.Machine

namespace Sys2Proof.Machine

/-! ## Family A against Family A6 -/

theorem codesA_repeat {p c : Byte} (hpc : p = c) (ps : List Byte) :
    codesA false 0 c (p :: ps) = .aRep :: codesA false 0 c ps := by
  rw [codesA, if_pos hpc, Bool.false_and, if_neg Bool.false_ne_true]

theorem codesA_run {p c : Byte} {ps : List Byte} {m : Nat} (hpc : p = c) (hrun : 13 ≤ runLength c (p :: ps))
    (hm : min (runLength c (p :: ps)) 255 = m + 1) :
    codesA true 0 c (p :: ps) = .aRun (BitVec.ofNat 8 (m + 1)) :: codesA true m c ps := by
  rw [codesA, if_pos hpc, Bool.true_and, if_pos (decide_eq_true hrun), hm, Nat.add_sub_cancel]

/-- Without the escape the leading pixels of a run are repeats, one each (R131). -/
theorem codesA_repeats {c : Byte} {m : Nat} {ps : List Byte} (hm : m ≤ runLength c ps) :
    codesA false 0 c ps = List.replicate m .aRep ++ codesA false m c ps := by
  induction m generalizing ps with
  | zero => rfl
  | succ m ih =>
    cases ps with
    | nil => cases hm
    | cons p ps =>
      rw [runLength] at hm
      split at hm
      · next hpc =>
        rw [codesA_repeat hpc, ih (by omega)]
        rfl
      · omega

theorem flatMap_aRep_length (shr : ShiftWidth) (m : Nat) :
    ((List.replicate m Instr.aRep).flatMap (encodeBits shr)).length = m := by
  rw [List.length_flatMap, List.map_replicate, List.sum_replicate]
  exact Nat.mul_one m

/-- A run-length escape takes 13 bits, and it stands for 13 repeats at least (R83, R127). -/
theorem codesA_length_le (shr : ShiftWidth) (ps : List Byte) (skip : Nat) (c : Byte) :
    ((codesA true skip c ps).flatMap (encodeBits shr)).length ≤
      ((codesA false skip c ps).flatMap (encodeBits shr)).length := by
  induction ps generalizing skip c with
  | nil => rw [codesA, codesA]
  | cons p ps ih =>
    cases skip with
    | succ skip => rw [codesA, codesA]; exact ih skip c
    | zero =>
      have hsame (i : Instr) (c' : Byte) : ((i :: codesA true 0 c' ps).flatMap (encodeBits shr)).length ≤
          ((i :: codesA false 0 c' ps).flatMap (encodeBits shr)).length := by
        rw [List.flatMap_cons, List.flatMap_cons, List.length_append, List.length_append]
        exact Nat.add_le_add_left (ih 0 c') _
      by_cases hesc : p = c ∧ 13 ≤ runLength c (p :: ps)
      · obtain ⟨hpc, hrun⟩ := hesc
        obtain ⟨m, hm⟩ : ∃ m, min (runLength c (p :: ps)) 255 = m + 1 := Nat.exists_eq_add_of_le' (by omega)
        have hbits : (encodeBits shr (.aRun (BitVec.ofNat 8 (m + 1)))).length = 13 := rfl
        have hrest := ih m c
        have hskip : codesA false (m + 1) c (p :: ps) = codesA false m c ps := rfl
        rw [codesA_run hpc hrun hm, codesA_repeats (m := m + 1) (by omega), hskip, List.flatMap_cons, List.length_append, hbits,
          List.flatMap_append, List.length_append, flatMap_aRep_length]
        omega
      · rw [codesA, codesA]
        split
        · next hpc =>
          rw [decide_eq_false fun hrun => hesc ⟨hpc, hrun⟩, Bool.and_false, Bool.and_false, if_neg Bool.false_ne_true]
          exact hsame .aRep c
        · split
          · exact hsame _ p
          · exact hsame _ p

theorem streamOf_length_le (shr : ShiftWidth) (p0 : Byte) (ps : List Byte) :
    (streamOf shr p0 (codesOf .a p0 ps)).length ≤ (streamOf shr p0 (codesOf .a6 p0 ps)).length := by
  rw [streamOf, streamOf, List.length_append, List.length_append]
  exact Nat.add_le_add_left (codesA_length_le shr ps 0 p0) _

/-- Settles O41: both encoders visit the pixels in raster order and pack the bits of their codes. -/
theorem escapeNeverLonger : Obligations.EscapeNeverLonger := by
  refine ⟨streamOf_length_le, fun s t u st hheight hreach ht hu => ?_⟩
  obtain ⟨p0, ps, hpix⟩ := List.exists_cons_of_ne_nil (stripeOf_ne_nil s.picture hheight .a st.toNat)
  obtain rfl := Host.Outcome.next.inj ((stripeEncoders s .a st p0 ps hheight hreach hpix).symm.trans ht)
  obtain rfl := Host.Outcome.next.inj ((stripeEncoders s .a6 st p0 ps hheight hreach hpix).symm.trans hu)
  have hle := streamOf_length_le s.dp.shr p0 ps
  show (packBits _).length ≤ (packBits _).length
  rw [packBits_length, packBits_length]
  omega

end Sys2Proof.Machine

namespace Sys2Proof.Machine

/-! ## Family A's codes as instructions -/

/-- A one-pixel code with a pixel left puts its colour at the next place (R136 to R138, R146 to R149). -/
theorem exec_onePixel_produces {i : Instr} (hi : OnePixel i) {s : State} (hs : s.Inv) (hk : s.dp.k < s.npix) (hrun : s.Running)
    (haddr : s.nextAddr < Config.addrSpace) : s.Produces (s.dp.coded i) (exec i s) := by
  have hneed : needPixel.run s = .ok () s := by rw [needPixel_run, if_pos hk]
  have hnext : putNext.run (s.setDp (s.dp.coded i)) = .ok () ((s.setDp (s.dp.coded i)).painted [(s.dp.coded i).color]) :=
    putNext_reached (s := s.setDp (s.dp.coded i)) hrun haddr
  have hcode : (do needPixel; setDp (Datapath.coded i); putNext : Act Unit).run s =
      .ok () ((s.setDp (s.dp.coded i)).painted [(s.dp.coded i).color]) := by
    simp only [EStateM.run_bind, hneed, setDp_run, hnext]
  refine ⟨_, (exec_onePixel hi s).trans (runUnit_ok hcode), fun a => ?_⟩
  show (if s.dp.tr && decide ((s.dp.coded i).color = s.regs.transpColor) then s.mem
    else s.mem.write s.nextAddr ((s.dp.coded i).color + s.regs.palmod)).read a = _
  by_cases hskip : s.Skips (s.dp.coded i).color
  · rw [if_pos (by simpa using hskip), if_neg fun h => h.2 hskip]
  · rw [if_neg (by simpa using hskip), Memory.read_write hs.mem]
    simp only [hskip, not_false_eq_true, and_true]

/-- Settles O30: a sum taken modulo 256 is the sum of its terms so taken. -/
theorem familyAOnePixelCodes : Obligations.FamilyAOnePixelCodes := by
  intro s hs hk hrun haddr
  refine ⟨exec_onePixel_produces (.inl (by simp)) hs hk hrun haddr, fun v => ?_, fun d => ?_⟩
  · exact exec_onePixel_produces (.inr ⟨v, 0, .inl rfl⟩) hs hk hrun haddr
  · have hcolor : BitVec.ofInt 8 ((s.dp.color.toNat : Int) + d) = s.dp.color + BitVec.ofInt 8 d := by
      rw [BitVec.ofInt_add, BitVec.ofInt_natCast, BitVec.ofNat_toNat, BitVec.setWidth_eq]
    rw [hcolor]
    exact exec_onePixel_produces (.inr ⟨0, d, .inr (.inl rfl)⟩) hs hk hrun haddr

/-- A run-length escape puts the current colour, where the places are reached (R135, R139). -/
theorem exec_aRun_reached {s : State} {n : Byte} (hn : n ≠ 0) (hrun : s.Running)
    (haddr : ∀ k, s.dp.k ≤ k → k < s.npix → s.pixelAddr s.dp.fam k < Config.addrSpace) :
    exec (.aRun n) s = .next ((s.setRun 0).painted (List.replicate (s.takes (.aRun n)) s.dp.color)) := by
  have htakes : s.takes (.aRun n) ≤ s.npix - s.dp.k := min_le_right _ _
  have hset : (setDp fun d => { d with run := s.takes (.aRun n) }).run s = .ok () (s.setRun (s.takes (.aRun n))) := rfl
  have hpixels := runPixels_reached (s.takes (.aRun n)) hrun fun k hk hk' => haddr k hk (by omega)
  refine runUnit_ok (u := ()) ?_
  show (applyARun n).run s = _
  rw [applyARun, if_neg hn]
  simp only [EStateM.run_bind, EStateM.run_get]
  show ((do setDp fun d => { d with run := s.takes (.aRun n) }; runPixels (s.takes (.aRun n)) : Act Unit)).run s = _
  rw [EStateM.run_bind, hset]
  exact hpixels

/-- Settles O32: the places of the pixels put are the only ones written; a count of 0 is the reserved one. -/
theorem familyARunLengthEscape : Obligations.FamilyARunLengthEscape := by
  refine fun s n => ⟨fun hn _ hrun haddr => ?_, fun hn => ?_⟩
  · refine ⟨_, (exec_aRun_reached hn hrun haddr).trans ?_, rfl, fun a ha => ?_⟩
    · rw [State.painted, List.length_replicate, State.putColors_regs (s := s) (t := s.setRun 0) rfl]
      rfl
    · refine State.putColors_read_other _ fun j hj hj' => ?_
      rw [List.length_replicate] at hj'
      exact ha j hj hj'
  · subst hn
    rfl

end Sys2Proof.Machine

namespace Sys2Proof.Machine

/-! ## Family B's codes as instructions -/

/-- `B.STEP` moves the colour down by one while the direction is down (R148). -/
theorem coded_bStep_of_down {d : Datapath} (h : d.inc = .down) : d.coded .bStep = { d with color := d.color - 1 } := by
  have hdown : d.color - 1 = d.color + Dir.down.toByte := sub_toByte_eq d.color .up
  rw [Datapath.coded, nextColor, h, hdown]

theorem coded_bStep_of_up {d : Datapath} (h : d.inc = .up) : d.coded .bStep = { d with color := d.color + 1 } := by
  rw [Datapath.coded, nextColor, h]
  rfl

/-- `B.REV` turns the direction round, then moves the colour in the new one (R149). -/
theorem coded_bRev_of_down {d : Datapath} (h : d.inc = .down) :
    d.coded .bRev = { d with color := d.color + 1, inc := .up } := by
  rw [Datapath.coded, nextColor, h]
  rfl

theorem coded_bRev_of_up {d : Datapath} (h : d.inc = .up) :
    d.coded .bRev = { d with color := d.color - 1, inc := .down } := by
  have hdown : d.color - 1 = d.color + Dir.up.flip.toByte := sub_toByte_eq d.color .up
  rw [Datapath.coded, nextColor, h, hdown]
  rfl

/-- Settles O31: each code puts the colour it leaves, and the direction says which way a step or a reversal moves it. -/
theorem familyBCodes : Obligations.FamilyBCodes := by
  intro s hs hk hrun haddr
  have hstep := exec_onePixel_produces (i := .bStep) (.inl (by simp)) hs hk hrun haddr
  have hrev := exec_onePixel_produces (i := .bRev) (.inl (by simp)) hs hk hrun haddr
  refine ⟨?rep, fun v => ?lit, fun h => ?stepDown, fun h => ?stepUp, fun h => ?revDown, fun h => ?revUp⟩
  case rep => exact exec_onePixel_produces (i := .bRep) (.inl (by simp)) hs hk hrun haddr
  case lit => exact exec_onePixel_produces (.inr ⟨v, 0, .inr (.inr rfl)⟩) hs hk hrun haddr
  case stepDown => exact coded_bStep_of_down h ▸ hstep
  case stepUp => exact coded_bStep_of_up h ▸ hstep
  case revDown => exact coded_bRev_of_down h ▸ hrev
  case revUp => exact coded_bRev_of_up h ▸ hrev

end Sys2Proof.Machine

namespace Sys2Proof.Machine

/-! ## The first shortest of some families -/

/-- The family is shortest among those of a list, and shorter than every one before it (R152). -/
def FirstShortest (len : Family → Nat) (fs : List Family) (f : Family) : Prop :=
  (∀ g ∈ fs, len f ≤ len g) ∧ ∃ before after, fs = before ++ f :: after ∧ ∀ g ∈ before, len f < len g

/-- Replacing the best only by a strictly shorter one keeps the first shortest (R152 corner case (b)). -/
theorem pickShortest_first (c : Cands) (best : Family) (fs : List Family) :
    FirstShortest c.clen (best :: fs) (pickShortest c best fs) := by
  induction fs generalizing best with
  | nil => exact ⟨by simp [pickShortest], [], [], rfl, by simp⟩
  | cons f fs ih =>
    rw [pickShortest]
    split
    · next hlt =>
      obtain ⟨hmin, before, after, hsplit, hbefore⟩ := ih f
      obtain ⟨hf, _⟩ := List.forall_mem_cons.mp hmin
      have hbest : c.clen (pickShortest c f fs) < c.clen best := hf.trans_lt hlt
      exact ⟨List.forall_mem_cons.mpr ⟨hbest.le, hmin⟩, best :: before, after, congrArg (best :: ·) hsplit,
        List.forall_mem_cons.mpr ⟨hbest, hbefore⟩⟩
    · next hle =>
      obtain ⟨hmin, before, after, hsplit, hbefore⟩ := ih best
      obtain ⟨hbest, hrest⟩ := List.forall_mem_cons.mp hmin
      have hf : c.clen (pickShortest c best fs) ≤ c.clen f := hbest.trans (not_lt.mp hle)
      refine ⟨List.forall_mem_cons.mpr ⟨hbest, List.forall_mem_cons.mpr ⟨hf, hrest⟩⟩, ?_⟩
      cases before with
      | nil =>
        obtain ⟨hwin, rfl⟩ := List.cons.inj hsplit
        exact ⟨[], f :: fs, congrArg (· :: f :: fs) hwin, by simp⟩
      | cons g before =>
        obtain ⟨rfl, hrest⟩ := List.cons.inj hsplit
        obtain ⟨hlt, hbefore⟩ := List.forall_mem_cons.mp hbefore
        exact ⟨best :: f :: before, after, congrArg (fun l => best :: f :: l) hrest,
          List.forall_mem_cons.mpr ⟨hlt, List.forall_mem_cons.mpr ⟨hlt.trans_le (not_lt.mp hle), hbefore⟩⟩⟩

theorem FirstShortest.find {len : Family → Nat} {fs : List Family} {f : Family} (h : FirstShortest len fs f) :
    fs.find? (fun f => fs.all fun g => decide (len f ≤ len g)) = some f := by
  obtain ⟨hmin, before, after, hsplit, hbefore⟩ := h
  refine List.find?_eq_some_iff_append.mpr ⟨by simpa using hmin, before, after, hsplit, fun g hg => ?_⟩
  have hf : f ∈ fs := by rw [hsplit]; simp
  simpa using ⟨f, hf, hbefore g hg⟩

/-! ## The candidates of a stripe of a picture -/

/-- The four streams of a stripe, with the stripe's own shift width (R152). -/
def pictureCands (p : Picture) (h st : Nat) : Cands where
  a := bitstreamOf .a (leastWidth (stripeOf p h .a st).tail) (stripeOf p h .a st)
  a6 := bitstreamOf .a6 (leastWidth (stripeOf p h .a st).tail) (stripeOf p h .a6 st)
  b := bitstreamOf .b (leastWidth (stripeOf p h .a st).tail) (stripeOf p h .b st)
  c := bitstreamOf .c (leastWidth (stripeOf p h .a st).tail) (stripeOf p h .c st)

theorem pictureCands_get (p : Picture) (h st : Nat) (f : Family) :
    (pictureCands p h st).get f = bitstreamOf f (leastWidth (stripeOf p h .a st).tail) (stripeOf p h f st) := by
  cases f <;> rfl

theorem pictureCands_clen (p : Picture) (h st : Nat) : (pictureCands p h st).clen = streamLen p h st :=
  funext fun f => congrArg List.length (pictureCands_get p h st f)

theorem Cands.ext_get {c d : Cands} (h : ∀ f, c.get f = d.get f) : c = d :=
  Cands.mk.injEq .. ▸ ⟨h .a, h .a6, h .b, h .c⟩

theorem winner_first (p : Picture) (h st : Nat) :
    FirstShortest (streamLen p h st) Config.selOrder (pictureCands p h st).winner :=
  pictureCands_clen p h st ▸ pickShortest_first (pictureCands p h st) .a [.a6, .b, .c]

/-- The winner of the selector's loop is the first shortest family. -/
theorem pictureCands_winner (p : Picture) (h st : Nat) : (pictureCands p h st).winner = bestFamily p h st := by
  rw [bestFamily, (winner_first p h st).find, Option.getD_some]

theorem bestFamily_first (p : Picture) (h st : Nat) :
    FirstShortest (streamLen p h st) Config.selOrder (bestFamily p h st) :=
  pictureCands_winner p h st ▸ winner_first p h st

theorem streamLen_bestFamily_le (p : Picture) (h st : Nat) (f : Family) :
    streamLen p h st (bestFamily p h st) ≤ streamLen p h st f :=
  (bestFamily_first p h st).1 f (by cases f <;> decide)

/-- Family A's stream has at most as many bytes as Family A6's (R127). -/
theorem streamLen_a_le_a6 (p : Picture) (h st : Nat) : streamLen p h st .a ≤ streamLen p h st .a6 := by
  have hsame : stripeOf p h .a6 st = stripeOf p h .a st := rfl
  rw [streamLen, streamLen, hsame]
  cases stripeOf p h .a st with
  | nil => exact le_rfl
  | cons p0 ps =>
    have hbits := streamOf_length_le (leastWidth ps) p0 ps
    rw [bitstreamOf, bitstreamOf, packBits_length, packBits_length]
    exact Nat.div_le_div_right (Nat.add_le_add_right hbits 7)

/-- A tie is won by Family A, which is tried first (R153). -/
theorem bestFamily_ne_a6 (p : Picture) (h st : Nat) : bestFamily p h st ≠ .a6 := by
  intro ha6
  obtain ⟨_, before, after, hsplit, hbefore⟩ := bestFamily_first p h st
  rw [ha6] at hsplit hbefore
  have hle := streamLen_a_le_a6 p h st
  cases before with
  | nil => cases hsplit
  | cons f before =>
    obtain ⟨rfl, _⟩ := List.cons.inj hsplit
    have hlt := hbefore .a (List.mem_cons_self ..)
    omega

end Sys2Proof.Machine

namespace Sys2Proof.Machine

/-! ## `SELECT` -/

/-- Every family visits the places that the raster order visits (R125, R128). -/
theorem pixelPos_raster (f : Family) {height k : Nat} (hk : k < 8 * height) :
    ∃ j < 8 * height, pixelPos .a height j = pixelPos f height k := by
  obtain ⟨hrow, hcol⟩ := pixelPos_bounds f hk
  refine ⟨8 * (pixelPos f height k).1 + (pixelPos f height k).2, by omega, Prod.ext ?_ ?_⟩
  · show (8 * (pixelPos f height k).1 + (pixelPos f height k).2) / 8 = _
    omega
  · show (8 * (pixelPos f height k).1 + (pixelPos f height k).2) % 8 = _
    omega

/-- A stripe that is reached in raster order is reached in every order. -/
theorem stripeReachable_of_raster {s : State} {st : Nat} (hr : s.StripeReachable .a st) (f : Family) :
    s.StripeReachable f st := by
  obtain ⟨hrun, haddr⟩ := hr
  refine ⟨hrun, fun k hk => ?_⟩
  obtain ⟨j, hj, hpos⟩ := pixelPos_raster f hk
  have hplace := haddr j hj
  rw [State.pixelAddr] at hplace ⊢
  exact hpos ▸ hplace

/-- The state while stripe `st` is selected: `S`, the Bit Packer, the datapath and the candidates are its own (R152). -/
def State.selecting (s : State) (st : Nat) (bp : Packer) (dp : Datapath) (cand : Cands) : State :=
  { s with bp := bp, dp := dp, sel := { s.sel with stripe := st, cand := cand } }

theorem encodeFamily_eq (f : Family) (st : Nat) : encodeFamily f st = encodeStripe st f (encoderOf f) := by
  cases f <;> rfl

/-- A family's encoder leaves the stripe's stream in `WOUT`, and leaves `SHR` alone (R130, R131, R140, R141). -/
theorem encodeFamily_run {s : State} {st : Nat} (hheight : s.regs.height ≠ 0) (hr : s.StripeReachable .a st) (f : Family) :
    ∃ bp dp, (encodeFamily f st).run s = .ok () (s.selecting st bp dp s.sel.cand) ∧ dp.shr = s.dp.shr ∧
      bp.wout = bitstreamOf f s.dp.shr (stripeOf s.picture s.regs.height.toNat f st) := by
  obtain ⟨p0, ps, hpix⟩ := List.exists_cons_of_ne_nil (stripeOf_ne_nil s.picture hheight f st)
  have hrun := encodeStripe_run (stripeReachable_of_raster hr f) hpix (encoderOf f)
  rw [← encodeFamily_eq] at hrun
  refine ⟨_, _, hrun, rfl, ?_⟩
  rw [encoderOf_eq, hpix]
  rfl

/-- The encoders of a list leave the streams of its families among the candidates (R152). -/
theorem encodeCandidates_run (fs : List Family) {s : State} {st : Nat} (hst : s.sel.stripe = st)
    (hheight : s.regs.height ≠ 0) (hr : s.StripeReachable .a st) :
    ∃ bp dp cand, (encodeCandidates st fs).run s = .ok () (s.selecting st bp dp cand) ∧ dp.shr = s.dp.shr ∧
      ∀ g, cand.get g = if g ∈ fs then bitstreamOf g s.dp.shr (stripeOf s.picture s.regs.height.toNat g st)
        else s.sel.cand.get g := by
  induction fs generalizing s with
  | nil =>
    subst hst
    exact ⟨s.bp, s.dp, s.sel.cand, rfl, rfl, fun g => (if_neg List.not_mem_nil).symm⟩
  | cons f fs ih =>
    obtain ⟨bp, dp, hencode, hshr, hout⟩ := encodeFamily_run hheight hr f
    obtain ⟨bp', dp', cand, hrest, hshr', hcand⟩ :=
      ih (s := s.selecting st bp dp (s.sel.cand.set f bp.wout)) rfl hheight hr
    refine ⟨bp', dp', cand, ?_, hshr'.trans hshr, fun g => ?_⟩
    · rw [encodeCandidates, EStateM.run_bind, hencode]
      exact hrest
    · rw [hcand g, show (s.selecting st bp dp (s.sel.cand.set f bp.wout)).dp.shr = s.dp.shr from hshr]
      by_cases hg : g ∈ fs
      · rw [if_pos hg, if_pos (List.mem_cons_of_mem f hg)]
        rfl
      · rw [if_neg hg]
        show (s.sel.cand.set f bp.wout).get g = _
        rw [Cands.get_set, hout]
        by_cases hgf : g = f
        · subst hgf
          rw [if_pos rfl, if_pos (List.mem_cons_self ..)]
        · rw [if_neg hgf, if_neg (mt List.mem_cons.mp (not_or.mpr ⟨hgf, hg⟩))]

/-- The state after `COMPUTE_SHR` (R120). -/
def State.measured (s : State) (st : Nat) : State :=
  (s.onStripe st).setDp { s.dp with shr := leastWidth (stripeOf s.picture s.regs.height.toNat .a st).tail }

/-- With the candidates of a stripe of a picture and its width, the result is the selector's for that stripe (R152). -/
theorem selected_eq_bestOf {s : State} {p : Picture} {h st : Nat} (hcand : s.sel.cand = pictureCands p h st)
    (hshr : s.dp.shr = leastWidth (stripeOf p h .a st).tail) : s.selected st = bestOf p h st := by
  rw [State.selected, hcand, hshr, pictureCands_winner, pictureCands_get, bestOf]

/-- `SELECT` leaves the candidates of the stripe and records the first shortest of them (R152). -/
theorem selectStripe_run {s : State} {st : Nat} (hheight : s.regs.height ≠ 0) (hr : s.StripeReachable .a st) :
    ∃ bp dp, (selectStripe st).run s = .ok () { s with
        bp := bp
        dp := dp
        sel := { s.sel with
          stripe := st
          cand := pictureCands s.picture s.regs.height.toNat st
          best := putBest s.sel.best (bestOf s.picture s.regs.height.toNat st) } } ∧
      dp.shr = leastWidth (stripeOf s.picture s.regs.height.toNat .a st).tail := by
  obtain ⟨bp, dp, cand, hcands, hshr, hget⟩ := encodeCandidates_run Config.selOrder (s := s.measured st) (st := st) rfl hheight hr
  have hcand : cand = pictureCands s.picture s.regs.height.toNat st := Cands.ext_get fun f => by
    rw [hget f, if_pos (by cases f <;> decide), pictureCands_get]
    rfl
  have hbest : (s.selecting st bp dp cand).selected st = bestOf s.picture s.regs.height.toNat st :=
    selected_eq_bestOf hcand hshr
  have hmeasure : (computeShr st).run s = .ok () (s.measured st) := computeShr_run hr
  refine ⟨bp, dp, ?_, hshr⟩
  rw [← hbest, ← hcand, selectStripe]
  simp only [EStateM.run_bind, hmeasure, hcands]
  rfl

/-- Settles O42. -/
theorem selectRecordsShortest : Obligations.SelectRecordsShortest := by
  intro s st hheight hr
  obtain ⟨bp, dp, hselect, hshr⟩ := selectStripe_run hheight hr
  refine ⟨bp, dp, _, runUnit_ok hselect, hshr, fun f => ?_⟩
  rw [pictureCands_get, hshr]

/-- Settles O43: the recorded family is the first shortest of the candidates. -/
theorem selectIsMinimal : Obligations.SelectIsMinimal := by
  intro s t st hheight hr ht
  obtain ⟨bp, dp, hselect, _⟩ := selectStripe_run hheight hr
  obtain rfl := Host.Outcome.next.inj ((runUnit_ok hselect).symm.trans ht)
  refine ⟨bestOf s.picture s.regs.height.toNat st.toNat, List.getLast?_concat, rfl, bestFamily_ne_a6 _ _ _, ?_, fun f => ?_⟩
  · exact (pictureCands_get _ _ _ _).symm
  · show _ ≤ ((pictureCands s.picture s.regs.height.toNat st.toNat).get f).length
    rw [pictureCands_get]
    exact streamLen_bestFamily_le _ _ _ f

end Sys2Proof.Machine

namespace Sys2Proof.Machine

/-! ## Where a launched command reaches -/

theorem dim_pos {d : Dim} (h : d ≠ 0) : 0 < d.toNat := Nat.pos_of_ne_zero fun h0 => h (BitVec.eq_of_toNat_eq h0)

/-- With a row of at least one byte, every address of a launched command lies in the space (R62). -/
theorem addressesFit_bounds {s : State} {rowLen : Nat} (h : s.addressesFit rowLen = true) (hrow : rowLen ≠ 0) :
    s.regionEnd rowLen ≤ Config.addrSpace ∧ s.blobEnd ≤ Config.addrSpace := by
  simpa [State.addressesFit, State.blobEnd, hrow] using h

/-- A cell of the picture or plane lies in its region (R51, R62). -/
theorem cellAddr_bounds {s : State} {rowLen y x : Nat} (hy : y < s.regs.height.toNat) (hx : x < rowLen) :
    s.regs.pixBase.toNat ≤ s.cellAddr y x ∧ s.cellAddr y x < s.regionEnd rowLen := by
  have hrows : y * s.regs.stride.toNat ≤ (s.regs.height.toNat - 1) * s.regs.stride.toNat :=
    Nat.mul_le_mul_right _ (by omega)
  rw [State.cellAddr, State.regionEnd]
  omega

/-- The pixel of a stripe as a cell of the picture (R51, R125, R128). -/
theorem pixelAddr_eq_cellAddr (s : State) (st : Nat) (f : Family) (k : Nat) : (s.onStripe st).pixelAddr f k =
    s.cellAddr (pixelPos f s.regs.height.toNat k).1 (8 * st + (pixelPos f s.regs.height.toNat k).2) :=
  Nat.add_assoc _ _ _

/-- The columns of a stripe of the picture lie in its row (R35). -/
theorem stripe_column_lt {s : State} {st col : Nat} (hst : st < s.stripes) (hcol : col < 8) :
    8 * st + col < s.regs.width.toNat := by
  rw [State.stripes] at hst
  omega

theorem pixelAddr_bounds {s : State} {st k : Nat} (hst : st < s.stripes) (f : Family) (hk : k < s.npix) :
    s.regs.pixBase.toNat ≤ (s.onStripe st).pixelAddr f k ∧
      (s.onStripe st).pixelAddr f k < s.regionEnd s.regs.width.toNat := by
  obtain ⟨hrow, hcol⟩ := pixelPos_bounds f hk
  rw [pixelAddr_eq_cellAddr]
  exact cellAddr_bounds hrow (stripe_column_lt hst hcol)

theorem width_ne_zero {s : State} {st : Nat} (hst : st < s.stripes) : s.regs.width.toNat ≠ 0 := by
  rw [State.stripes] at hst
  omega

theorem stripeReachable_of_fit {s : State} (hrun : s.Running) (hfit : s.addressesFit s.regs.width.toNat = true) {st : Nat}
    (hst : st < s.stripes) (f : Family) : s.StripeReachable f st := by
  obtain ⟨hregion, _⟩ := addressesFit_bounds hfit (width_ne_zero hst)
  exact ⟨hrun, fun k hk => (pixelAddr_bounds hst f hk).2.trans_le hregion⟩

/-! ## Runs that cannot stop -/

/-- A triple without stops is a run that goes on. -/
theorem Triple.run_ok {α : Type} {P : State → Prop} {x : Act α} {Q : α → State → Prop}
    (h : Triple (fun _ _ => False) P x Q) {s : State} (hs : P s) : ∃ a t, x.run s = .ok a t ∧ Q a t := by
  have hend := h hs
  cases hr : x.run s <;> rw [hr] at hend
  · exact ⟨_, _, rfl, hend⟩
  · exact hend.elim

/-! ## Bytes written one after the other -/

/-- Memory after bytes were written at ascending addresses. -/
def Memory.writes : Memory → Nat → List Byte → Memory
  | m, _, [] => m
  | m, a, b :: bs => (m.write a b).writes (a + 1) bs

theorem Memory.writes_append (m : Memory) (a : Nat) (bs cs : List Byte) :
    m.writes a (bs ++ cs) = (m.writes a bs).writes (a + bs.length) cs := by
  induction bs generalizing m a with
  | nil => rfl
  | cons b bs ih => rw [List.cons_append, writes, ih, writes, List.length_cons, Nat.add_right_comm, Nat.add_assoc]

theorem Memory.writes_read_other (m : Memory) {a c : Nat} {bs : List Byte} (h : c < a ∨ a + bs.length ≤ c) :
    (m.writes a bs).read c = m.read c := by
  induction bs generalizing m a with
  | nil => rfl
  | cons b bs ih =>
    rw [List.length_cons] at h
    rw [writes, ih _ (by omega), Memory.read_write_other _ _ (by omega)]

/-- What was written is there. -/
theorem Memory.bytes_writes {m : Memory} (hm : Memory.risingFrom 0 m = true) (a : Nat) (bs : List Byte) :
    (m.writes a bs).bytes a bs.length = bs := by
  induction bs generalizing m a with
  | nil => rfl
  | cons b bs ih =>
    rw [List.length_cons, Memory.bytes_succ, writes, ih (Memory.risingFrom_write hm (Nat.zero_le _)),
      Memory.writes_read_other _ (.inl a.lt_succ_self), Memory.read_write_same hm]

theorem writeBytes_run {s : State} {a : Nat} {bs : List Byte} (h : ∀ j < bs.length, s.reaches (a + j) = true) :
    (writeBytes a bs).run s = .ok () (s.setMem (s.mem.writes a bs)) := by
  induction bs generalizing s a with
  | nil => rfl
  | cons b bs ih =>
    rw [List.length_cons] at h
    have hwrite : (writeByte a b).run s = .ok () (s.setMem (s.mem.write a b)) := by
      rw [writeByte_run, if_pos (show s.reaches a = true from h 0 (by omega))]
    have hrest := ih (s := s.setMem (s.mem.write a b)) (a := a + 1) fun j hj => by
      rw [Nat.add_right_comm]
      exact h (j + 1) (by omega)
    rw [writeBytes, EStateM.run_bind, hwrite]
    exact hrest

/-! ## The blob as it is written -/

/-- The offset table for some records, the first of which is at `ofs` (R76). -/
def offsetTable : Nat → List Best → List Byte
  | _, [] => []
  | ofs, b :: bs => bytesLE 4 ofs ++ offsetTable (ofs + b.len) bs

/-- A record: type byte and stream (R75, R155). -/
def recordBytes (en : Bool) (b : Best) : List Byte := typeByte b.fam en b.shr :: b.stream

theorem recordBytes_length (en : Bool) (b : Best) : (recordBytes en b).length = b.len := by
  rw [recordBytes, List.length_cons, Best.len, Nat.add_comm]

theorem records_length (en : Bool) (bs : List Best) :
    (bs.flatMap (recordBytes en)).length = (bs.map Best.len).sum := by
  simp only [List.length_flatMap, recordBytes_length]

theorem offsetTable_length (ofs : Nat) (bs : List Best) : (offsetTable ofs bs).length = 4 * bs.length := by
  induction bs generalizing ofs with
  | nil => rfl
  | cons b bs ih => rw [offsetTable, List.length_append, bytesLE_length, ih, List.length_cons]; omega

theorem offsetTable_concat (ofs : Nat) (bs : List Best) (b : Best) :
    offsetTable ofs (bs ++ [b]) = offsetTable ofs bs ++ bytesLE 4 (ofs + (bs.map Best.len).sum) := by
  induction bs generalizing ofs with
  | nil => exact List.append_nil _
  | cons c bs ih =>
    rw [List.cons_append, offsetTable, ih, offsetTable, List.append_assoc, List.map_cons, List.sum_cons, Nat.add_assoc]

/-- The selector's results for stripes 0 .. `n` - 1 of a picture (R156). -/
def bests (p : Picture) (h n : Nat) : List Best := (List.range n).map (bestOf p h)

theorem bests_succ (p : Picture) (h n : Nat) : bests p h (n + 1) = bests p h n ++ [bestOf p h n] := by
  rw [bests, List.range_succ, List.map_append, bests, List.map_singleton]

theorem bests_length (p : Picture) (h n : Nat) : (bests p h n).length = n := by
  rw [bests, List.length_map, List.length_range]

theorem imageOffset_eq (en : Bool) (p : Picture) (h n st : Nat) :
    imageOffset en p h n st = 4 * n + Config.smapOfsBias + ((bests p h st).map Best.len).sum := by
  rw [imageOffset, bests, List.map_map]
  congr 3
  exact funext fun j => recordBytes_length en (bestOf p h j)

/-- The image blob is the table for the selector's results and their records (R76). -/
theorem imageBlob_eq (en : Bool) (p : Picture) (h n : Nat) : imageBlob en p h n =
    offsetTable (4 * n + Config.smapOfsBias) (bests p h n) ++ (bests p h n).flatMap (recordBytes en) := by
  have htable (m : Nat) : offsetTable (4 * n + Config.smapOfsBias) (bests p h m) =
      (List.range m).flatMap fun st => bytesLE 4 (imageOffset en p h n st) := by
    induction m with
    | zero => rfl
    | succ m ih =>
      rw [bests_succ, offsetTable_concat, ih, List.range_succ, List.flatMap_append, List.flatMap_singleton, imageOffset_eq]
  rw [imageBlob, htable, bests, List.flatMap_map]
  rfl

theorem imageBlob_length (en : Bool) (p : Picture) (h n : Nat) :
    (imageBlob en p h n).length = 4 * n + ((bests p h n).map Best.len).sum := by
  rw [imageBlob_eq, List.length_append, offsetTable_length, records_length, bests_length]

theorem writeOffsets_run (bs : List Best) {s : State} {i ofs : Nat}
    (h : ∀ j < 4 * bs.length, s.reaches (s.regs.blobBase.toNat + 4 * i + j) = true) : (writeOffsets i ofs bs).run s =
      .ok () (s.setMem (s.mem.writes (s.regs.blobBase.toNat + 4 * i) (offsetTable ofs bs))) := by
  induction bs generalizing s i ofs with
  | nil => rfl
  | cons b bs ih =>
    rw [List.length_cons] at h
    have hentry := writeBytes_run (s := s) (a := s.regs.blobBase.toNat + 4 * i) (bs := bytesLE 4 ofs) fun j hj => h j (by
      rw [bytesLE_length] at hj
      omega)
    have hrest := ih (s := s.setMem (s.mem.writes (s.regs.blobBase.toNat + 4 * i) (bytesLE 4 ofs))) (i := i + 1)
      (ofs := ofs + b.len) fun j hj => by
        have := h (4 + j) (by omega)
        rwa [← Nat.add_assoc] at this
    rw [writeOffsets]
    simp only [EStateM.run_bind, EStateM.run_get, hentry]
    rw [offsetTable, Memory.writes_append, bytesLE_length]
    exact hrest

/-- The state after a record was written, the write position past it (R156). -/
def State.withRecord (s : State) (b : Best) : State :=
  (s.setSel { s.sel with wpos := s.sel.wpos + b.len }).setMem
    (s.mem.writes (s.regs.blobBase.toNat + s.sel.wpos) (recordBytes s.regs.transpEn b))

/-- A record within `TOTAL` is written, and the accounting test does not fire (R158). -/
theorem writeRecords_cons {s : State} {b : Best} (hfits : s.sel.wpos + b.len ≤ s.sel.total)
    (h : ∀ j < b.len, s.reaches (s.regs.blobBase.toNat + s.sel.wpos + j) = true) (bs : List Best) :
    (writeRecords (b :: bs)).run s = (writeRecords bs).run (s.withRecord b) := by
  rw [Best.len] at h
  have htype : (writeByte (s.regs.blobBase.toNat + s.sel.wpos) (typeByte b.fam s.regs.transpEn b.shr)).run s = .ok ()
      (s.setMem (s.mem.write (s.regs.blobBase.toNat + s.sel.wpos) (typeByte b.fam s.regs.transpEn b.shr))) := by
    rw [writeByte_run, if_pos (show s.reaches (s.regs.blobBase.toNat + s.sel.wpos) = true from h 0 (by omega))]
  have hstream := writeBytes_run (bs := b.stream) (a := s.regs.blobBase.toNat + s.sel.wpos + 1)
    (s := s.setMem (s.mem.write (s.regs.blobBase.toNat + s.sel.wpos) (typeByte b.fam s.regs.transpEn b.shr)))
    fun j hj => by
      rw [Nat.add_assoc]
      exact h (1 + j) (by omega)
  rw [writeRecords]
  simp only [EStateM.run_bind, EStateM.run_get, htype, hstream]
  show (if s.sel.total < s.sel.wpos + b.len then throw (.raise .acct) else writeRecords bs : Act Unit).run (s.withRecord b) = _
  rw [if_neg (not_lt.mpr hfits)]

/-- The records are written one after the other. -/
theorem writeRecords_run (bs : List Best) {s : State} (htotal : s.sel.wpos + (bs.map Best.len).sum ≤ s.sel.total)
    (h : ∀ j < (bs.map Best.len).sum, s.reaches (s.regs.blobBase.toNat + s.sel.wpos + j) = true) :
    (writeRecords bs).run s = .ok () ((s.setSel { s.sel with wpos := s.sel.wpos + (bs.map Best.len).sum }).setMem
      (s.mem.writes (s.regs.blobBase.toNat + s.sel.wpos) (bs.flatMap (recordBytes s.regs.transpEn)))) := by
  induction bs generalizing s with
  | nil => rfl
  | cons b bs ih =>
    rw [List.map_cons, List.sum_cons] at htotal h
    have hrest := ih (s := s.withRecord b) (show s.sel.wpos + b.len + _ ≤ s.sel.total by omega) fun j hj => by
      have hj' := h (b.len + j) (by omega)
      rwa [← Nat.add_assoc, Nat.add_assoc _ s.sel.wpos] at hj'
    rw [writeRecords_cons (by omega) (fun j hj => h j (by omega)), hrest, List.map_cons, List.sum_cons, List.flatMap_cons,
      Memory.writes_append, recordBytes_length, ← Nat.add_assoc, Nat.add_assoc _ s.sel.wpos b.len]
    rfl

end Sys2Proof.Machine

namespace Sys2Proof.Machine

/-! ## `ENC_IMAGE` -/

/-- What an image encode never changes: the host's registers, `HAS_TRANSP`, the Bit Unpacker, the mask codec and the requests. -/
structure EncodeFrame (s₀ s : State) : Prop where
  regs : s.regs = s₀.regs
  transp : s.sel.hasTransp = s₀.sel.hasTransp
  bu : s.bu = s₀.bu
  mask : s.mask = s₀.mask
  bus : s.bus = s₀.bus
  rdata : s.rdata = s₀.rdata

/-- Pass 1 of R156 has selected the stripes below `i`. -/
structure SelectedBelow (s₀ : State) (i : Nat) (s : State) : Prop extends EncodeFrame s₀ s where
  mem : s.mem = s₀.mem
  best : s.sel.best = bests s₀.picture s₀.regs.height.toNat i
  total : s.sel.total = 4 * s₀.stripes + ((bests s₀.picture s₀.regs.height.toNat i).map Best.len).sum

theorem picture_congr {s t : State} (hregs : t.regs = s.regs) (hmem : t.mem = s.mem) : t.picture = s.picture := by
  unfold State.picture
  rw [hregs, hmem]

theorem stripes_congr {s t : State} (hregs : t.regs = s.regs) : t.stripes = s.stripes := by
  rw [State.stripes, State.stripes, hregs]

theorem stripeReachable_congr {s t : State} (hregs : t.regs = s.regs) {f : Family} {st : Nat} (h : s.StripeReachable f st) :
    t.StripeReachable f st := by
  simpa only [State.StripeReachable, State.Running, State.npix, State.pixelAddr, State.stripeAddr, State.onStripe,
    State.setSel_regs, State.setSel_sel, hregs] using h

theorem putBest_bests (p : Picture) (h i : Nat) : putBest (bests p h i) (bestOf p h i) = bests p h (i + 1) := by
  rw [bests_succ]
  refine putBest_new fun b hb => ?_
  obtain ⟨j, hj, rfl⟩ := List.mem_map.mp hb
  exact List.mem_range.mp hj

section
variable {s₀ : State}

/-- Pass 1 of R156 for a stripe that is reached. -/
theorem sizeStripe_selected (hheight : s₀.regs.height ≠ 0) {i : Nat} (hr : s₀.StripeReachable .a i) :
    Triple (fun _ _ => False) (SelectedBelow s₀ i) (sizeStripe i) fun _ => SelectedBelow s₀ (i + 1) := by
  intro s h
  obtain ⟨bp, dp, hselect, hshr⟩ := selectStripe_run (h.regs ▸ hheight) (stripeReachable_congr h.regs hr)
  rw [picture_congr h.regs h.mem, h.regs, h.best, putBest_bests] at hselect
  rw [picture_congr h.regs h.mem, h.regs] at hshr
  rw [sizeStripe, EStateM.run_bind, hselect]
  refine ⟨⟨rfl, h.transp, h.bu, h.mask, h.bus, h.rdata⟩, h.mem, rfl, ?_⟩
  rw [bests_succ, List.map_append, List.sum_append, List.map_singleton, List.sum_singleton, ← Nat.add_assoc, ← h.total,
    ← selected_eq_bestOf (s := { s with dp := dp, sel := { s.sel with cand := pictureCands s₀.picture _ i } }) rfl hshr]
  rfl

end

/-- Where a blob of the picture's stripes is to be written is reached, when it fits (R62). -/
theorem blob_reached {s : State} (hrun : s.Running) (hfit : s.addressesFit s.regs.width.toNat = true) {en : Bool}
    {p : Picture} {h : Nat} (hlen : (imageBlob en p h s.stripes).length ≤ s.regs.blobSize.toNat) {j : Nat}
    (hj : j < (imageBlob en p h s.stripes).length) : s.reaches (s.regs.blobBase.toNat + j) = true := by
  have hstripes : s.stripes ≠ 0 := fun h0 => by
    rw [h0] at hj
    exact absurd hj (Nat.not_lt_zero j)
  obtain ⟨_, hblob⟩ := addressesFit_bounds hfit (width_ne_zero (Nat.pos_of_ne_zero hstripes))
  rw [State.blobEnd] at hblob
  exact (State.reaches_iff _ _).mpr ⟨hrun, by omega⟩

/-- A command whose precondition and launch test pass goes on with its own work (R213, R61, R62). -/
theorem launch_run {len : State → Nat} {rest : State → Act Nat} {s : State} (hwidth : s.regs.width.toNat % 8 = 0)
    (hheight : s.regs.height ≠ 0) (hfit : s.addressesFit (len s) = true) (hdisjoint : s.regionsDisjoint (len s) = true) :
    (do checkPrecond; let s ← get; checkLaunch (len s); rest s : Act Nat).run s = (rest s).run s := by
  have hpre : checkPrecond.run s = .ok () s := by
    rw [checkPrecond_run, if_neg (not_or.mpr ⟨not_not.mpr hwidth, hheight⟩)]
  have hlaunch : (checkLaunch (len s)).run s = .ok () s := by rw [checkLaunch_run, if_pos hfit, if_pos hdisjoint]
  simp only [EStateM.run_bind, hpre, EStateM.run_get, hlaunch]

/-- Pass 2 of R156, from the state in which pass 1 ends. -/
def assembleBlob (s : State) : Act Nat := do
  writeOffsets 0 (4 * s.stripes + Config.smapOfsBias) s.sel.best
  modify fun s => s.setSel { s.sel with wpos := 4 * s.stripes }
  writeRecords s.sel.best
  return s.sel.total

/-- The blob of the selector's results (R76). -/
def State.assembled (s : State) : List Byte :=
  offsetTable (4 * s.stripes + Config.smapOfsBias) s.sel.best ++ s.sel.best.flatMap (recordBytes s.regs.transpEn)

theorem assembled_length {s : State} (hcount : s.sel.best.length = s.stripes) :
    s.assembled.length = 4 * s.stripes + (s.sel.best.map Best.len).sum := by
  rw [State.assembled, List.length_append, offsetTable_length, records_length, hcount]

/-- The table is written, then the records behind it; `TOTAL` is their length, so that the accounting test never fires
(R158). -/
theorem assembleBlob_run {s : State} (hcount : s.sel.best.length = s.stripes) (htotal : s.sel.total = s.assembled.length)
    (hreach : ∀ j < s.assembled.length, s.reaches (s.regs.blobBase.toNat + j) = true) :
    (assembleBlob s).run s = .ok s.assembled.length ((s.setSel { s.sel with wpos := s.assembled.length }).setMem
      (s.mem.writes s.regs.blobBase.toNat s.assembled)) := by
  have hlen := assembled_length hcount
  have htable := writeOffsets_run s.sel.best (s := s) (i := 0) (ofs := 4 * s.stripes + Config.smapOfsBias)
    fun j hj => hreach j (by omega)
  have hrecords := writeRecords_run s.sel.best
    (s := (s.setSel { s.sel with wpos := 4 * s.stripes }).setMem (s.mem.writes s.regs.blobBase.toNat
      (offsetTable (4 * s.stripes + Config.smapOfsBias) s.sel.best)))
    (show 4 * s.stripes + _ ≤ s.sel.total by omega) fun j hj => by
      have hj' := hreach (4 * s.stripes + j) (by omega)
      rwa [← Nat.add_assoc] at hj'
  have hmem : s.mem.writes s.regs.blobBase.toNat s.assembled =
      (s.mem.writes s.regs.blobBase.toNat (offsetTable (4 * s.stripes + Config.smapOfsBias) s.sel.best)).writes
        (s.regs.blobBase.toNat + 4 * s.stripes) (s.sel.best.flatMap (recordBytes s.regs.transpEn)) := by
    rw [State.assembled, Memory.writes_append, offsetTable_length, hcount]
  rw [assembleBlob, EStateM.run_bind, htable]
  show (do writeRecords s.sel.best; return s.sel.total : Act Nat).run ((s.setSel { s.sel with wpos := 4 * s.stripes }).setMem
    (s.mem.writes s.regs.blobBase.toNat (offsetTable (4 * s.stripes + Config.smapOfsBias) s.sel.best))) = _
  rw [EStateM.run_bind, hrecords, hmem, hlen, ← hlen, ← htotal]
  simp only [EStateM.run_pure, htotal, hlen]
  rfl

/-- `ENC_IMAGE` writes the picture's blob, or finds that it does not fit and writes nothing (R156, R215). -/
theorem encodeImage_run {s : State} (hrun : s.Running) (hwidth : s.regs.width.toNat % 8 = 0) (hheight : s.regs.height ≠ 0)
    (hfit : s.addressesFit s.regs.width.toNat = true) (hdisjoint : s.regionsDisjoint s.regs.width.toNat = true)
    {blob : List Byte} (hblob : blob = imageBlob s.regs.transpEn s.picture s.regs.height.toNat s.stripes) :
    ∃ t, EncodeFrame s t ∧
      (blob.length ≤ s.regs.blobSize.toNat →
        encodeImage.run s = .ok blob.length t ∧ t.mem = s.mem.writes s.regs.blobBase.toNat blob) ∧
      (s.regs.blobSize.toNat < blob.length → encodeImage.run s = .error (.raise .noSpace) t ∧ t.mem = s.mem) := by
  have hstart : SelectedBelow s 0 (s.setSel { s.sel with best := [], total := 4 * s.stripes }) :=
    ⟨⟨rfl, rfl, rfl, rfl, rfl, rfl⟩, rfl, rfl, rfl⟩
  have hloop : Triple (fun _ _ => False) (SelectedBelow s 0) (eachFrom sizeStripe s.stripes 0) fun _ =>
      SelectedBelow s (0 + s.stripes) :=
    Triple.each s.stripes 0 fun i _ hi =>
      sizeStripe_selected hheight (stripeReachable_of_fit hrun hfit (by omega) .a)
  rw [Nat.zero_add] at hloop
  obtain ⟨_, u, hsize, hu⟩ := hloop.run_ok hstart
  have hstripes : u.stripes = s.stripes := stripes_congr hu.regs
  have hblob' : u.assembled = blob := by rw [State.assembled, hu.best, hu.regs, hstripes, hblob, imageBlob_eq]
  have htotal : u.sel.total = u.assembled.length := by rw [hu.total, hblob', hblob, imageBlob_length]
  have hcommand : encodeImage.run s =
      (if u.regs.blobSize.toNat < u.sel.total then throw (.raise .noSpace) else assembleBlob u : Act Nat).run u := by
    rw [encodeImage, launch_run hwidth hheight hfit hdisjoint]
    show (do eachFrom sizeStripe s.stripes 0; let u ← get
             if u.regs.blobSize.toNat < u.sel.total then throw (.raise .noSpace) else assembleBlob u : Act Nat).run
      (s.setSel { s.sel with best := [], total := 4 * s.stripes }) = _
    rw [EStateM.run_bind, hsize]
    rfl
  rw [htotal, hblob', hu.regs] at hcommand
  by_cases hlen : blob.length ≤ s.regs.blobSize.toNat
  · rw [if_neg (not_lt.mpr hlen), assembleBlob_run (by rw [hu.best, bests_length, hstripes]) htotal fun j hj => ?reach, hblob',
      hu.mem, hu.regs] at hcommand
    case reach =>
      rw [State.reaches, hu.regs]
      rw [hblob', hblob] at hj
      exact blob_reached hrun hfit (hblob ▸ hlen) hj
    refine ⟨_, ?_, fun _ => ⟨hcommand, rfl⟩, fun hlt => absurd hlen (not_le.mpr hlt)⟩
    exact ⟨hu.regs, hu.transp, hu.bu, hu.mask, hu.bus, hu.rdata⟩
  · rw [if_pos (not_le.mp hlen)] at hcommand
    exact ⟨u, hu.toEncodeFrame, fun hle => absurd hle hlen, fun _ => ⟨hcommand, hu.mem⟩⟩

/-- Settles O52. -/
theorem encodeImageWritesBlob : Obligations.EncodeImageWritesBlob := by
  intro s blob hinv ⟨hbusy, hwidth, hheight⟩ ⟨hfit, hdisjoint⟩ hblob
  obtain ⟨t, ht, hok, hfull⟩ := encodeImage_run (s := startCommand s) rfl hwidth hheight hfit hdisjoint hblob
  have hrising : Memory.risingFrom 0 s.mem = true := (Bool.and_eq_true_iff.mp hinv.mem).1
  refine ⟨fun hlen => ?_, fun hlen => ?_⟩
  · obtain ⟨hrun, hmem⟩ := hok hlen
    have hmem' : (completeOk blob.length t).mem = s.mem.writes s.regs.blobBase.toNat blob := hmem
    refine ⟨_, runCommand_ok hbusy hrun, ?_, ?_, fun a ha => ?_, ht.bu, ht.mask, ht.bus, ht.rdata⟩
    · rw [completeOk_eq, State.setRegs_regs, ht.regs, ht.transp]
      rfl
    · rw [hmem', Memory.bytes_writes hrising]
    · rw [hmem', Memory.writes_read_other _ ha]
  · obtain ⟨hrun, hmem⟩ := hfull hlen
    refine ⟨_, runCommand_raise hbusy hrun, ?_, hmem, ht.bu, ht.mask, ht.bus, ht.rdata⟩
    rw [raiseError_eq, State.setRegs_regs, ht.regs, ht.transp]
    rfl

end Sys2Proof.Machine

namespace Sys2Proof.Machine

/-! ## `ERR_ACCT` is never raised

`ENC_IMAGE` is the only pseudocode with the accounting test, and its run is known; every other piece of pseudocode raises
other errors only, and none writes `STATUS` (R158, R220). -/

/-- `STATUS` does not show `ERR_ACCT`. -/
abbrev State.NoAcct (s : State) : Prop := s.regs.status.err ≠ .acct

/-- Pseudocode that neither raises `ERR_ACCT` nor puts it into `STATUS`. -/
abbrev Sound {α : Type} (x : Act α) : Prop := Keeps (fun e _ => e ≠ .raise .acct) State.NoAcct x

namespace Sound

variable {α β : Type}

theorem pure (a : α) : Sound (Pure.pure a : Act α) := Triple.pure fun _ h => h

theorem throw {e : Stop} (he : e ≠ .raise .acct) : Sound (MonadExcept.throw e : Act α) := Triple.throw fun _ _ => he

theorem bind {x : Act α} {f : α → Act β} (hx : Sound x) (hf : ∀ a, Sound (f a)) : Sound (x >>= f) := Triple.bind hx hf

theorem get_bind {f : State → Act α} (h : ∀ s, Sound (f s)) : Sound (MonadState.get >>= f) := Triple.read_bind fun s _ => h s

theorem ite {c : Prop} [Decidable c] {x y : Act α} (hx : Sound x) (hy : Sound y) : Sound (if c then x else y) :=
  Triple.ite (fun _ => hx) fun _ => hy

/-- An update that leaves `STATUS` alone. -/
theorem update {f : State → State} (hf : ∀ s, (f s).regs.status = s.regs.status) : Sound (modify f) :=
  Triple.update fun s h => by rw [State.NoAcct, hf s]; exact h

theorem update_bind {f : State → State} {x : Unit → Act α} (hf : ∀ s, (f s).regs.status = s.regs.status)
    (hx : ∀ u, Sound (x u)) : Sound (modify f >>= x) :=
  (update hf).bind hx

theorem setDp (f : Datapath → Datapath) : Sound (Machine.setDp f) := update fun _ => rfl

theorem setMask (f : MaskRegs → MaskRegs) : Sound (Machine.setMask f) := update fun _ => rfl

theorem each {body : Nat → Act Unit} (hb : ∀ i, Sound (body i)) (n i : Nat) : Sound (eachFrom body n i) :=
  Triple.each (J := fun _ => State.NoAcct) n i fun j _ _ => hb j

/-! ### Memory and the start of a command -/

theorem unreached_ne (s : State) : s.unreached ≠ .raise .acct := by
  rw [State.unreached]
  split <;> exact Stop.noConfusion

theorem readByte (a : Nat) : Sound (Machine.readByte a) := by
  intro s hs
  rw [readByte_run]
  split
  · exact hs
  · exact unreached_ne s

theorem writeByte (a : Nat) (v : Byte) : Sound (Machine.writeByte a v) :=
  Triple.writeByte (fun s _ => unreached_ne s) fun _ hs _ => hs

theorem readLE (n a : Nat) : Sound (Machine.readLE n a) := by
  induction n generalizing a with
  | zero => exact pure 0
  | succ n ih => exact (readByte a).bind fun _ => (ih (a + 1)).bind fun _ => pure _

theorem writeBytes (a : Nat) (bs : List Byte) : Sound (Machine.writeBytes a bs) := by
  induction bs generalizing a with
  | nil => exact pure ()
  | cons b bs ih => exact (writeByte a b).bind fun _ => ih (a + 1)

theorem checkPrecond : Sound Machine.checkPrecond := by
  intro s hs
  rw [checkPrecond_run]
  split
  · exact fun h => by cases h
  · exact hs

theorem checkLaunch (n : Nat) : Sound (Machine.checkLaunch n) := by
  intro s hs
  rw [checkLaunch_run]
  split
  · split
    · exact hs
    · exact Stop.noConfusion
  · exact Stop.noConfusion

theorem launch {len : State → Nat} {rest : State → Act Nat} (h : ∀ s, Sound (rest s)) :
    Sound (do Machine.checkPrecond; let s ← get; Machine.checkLaunch (len s); rest s) :=
  checkPrecond.bind fun _ => get_bind fun s => (checkLaunch _).bind fun _ => h s

/-! ### Bit Packer and Bit Unpacker -/

theorem packerWrite (v : Byte) (n : Nat) : Sound (Machine.packerWrite v n) :=
  ite (get_bind fun _ => ite (update fun _ => rfl) (throw Stop.noConfusion)) (throw Stop.noConfusion)

theorem unpackerInit (start stop : Nat) : Sound (Machine.unpackerInit start stop) := update fun _ => rfl

theorem unpackerFill : Sound Machine.unpackerFill :=
  get_bind fun _ => ite ((readByte _).bind fun _ => update fun _ => rfl) (pure ())

theorem readNbits (n : Nat) : Sound (Machine.readNbits n) :=
  ite (unpackerFill.bind fun _ => get_bind fun _ => ite (throw (by decide))
    (update_bind (fun _ => rfl) fun _ => get_bind fun _ => pure _)) (throw Stop.noConfusion)

/-! ### Stream codes -/

theorem needPixel : Sound Machine.needPixel := get_bind fun _ => ite (pure ()) (throw Stop.noConfusion)

theorem put (k : Nat) (c : Byte) : Sound (Machine.put k c) := get_bind fun _ => ite (pure ()) (writeByte _ _)

theorem putNext : Sound Machine.putNext := get_bind fun _ => (put _ _).bind fun _ => setDp _

theorem runPixels (n : Nat) : Sound (Machine.runPixels n) := by
  induction n with
  | zero => exact pure ()
  | succ n ih => exact putNext.bind fun _ => (setDp _).bind fun _ => ih

/-- The code of a pixel that is one code (R136 to R138, R146 to R149). -/
theorem onePixel (f : Datapath → Datapath) : Sound (do Machine.needPixel; Machine.setDp f; Machine.putNext) :=
  needPixel.bind fun _ => (setDp f).bind fun _ => putNext

theorem applyARep : Sound Machine.applyARep := needPixel.bind fun _ => putNext
theorem applyBRep : Sound Machine.applyBRep := applyARep

theorem applyARun (n : Byte) : Sound (Machine.applyARun n) :=
  ite (throw (by decide)) (get_bind fun _ => (setDp _).bind fun _ => runPixels _)

/-- The code tree of Family A, whatever is done with a code (R132, R88). -/
theorem walkFamilyA {cases : ACases (Act α)} (shr : ShiftWidth) (hrep : Sound cases.rep) (hlit : ∀ v, Sound (cases.lit v))
    (hdelta : ∀ d, Sound (cases.delta d)) (hrun : ∀ n, Sound (cases.run n)) : Sound (walkA Machine.readNbits shr cases) :=
  (readNbits 1).bind fun _ => ite hrep <| (readNbits 1).bind fun _ => ite ((readNbits _).bind hlit) <|
    (readNbits 3).bind fun _ => ite (hdelta _) ((readNbits 8).bind hrun)

theorem walkFamilyB {cases : BCases (Act α)} (shr : ShiftWidth) (hrep : Sound cases.rep) (hlit : ∀ v, Sound (cases.lit v))
    (hstep : Sound cases.step) (hrev : Sound cases.rev) : Sound (walkB Machine.readNbits shr cases) :=
  (readNbits 1).bind fun _ => ite hrep <| (readNbits 1).bind fun _ => ite ((readNbits _).bind hlit) <|
    (readNbits 1).bind fun _ => ite hstep hrev

theorem fetchACode : Sound Machine.fetchACode :=
  get_bind fun _ => walkFamilyA _ (pure _) (fun _ => pure _) (fun _ => pure _) fun _ => pure _

theorem fetchBCode : Sound Machine.fetchBCode :=
  get_bind fun _ => walkFamilyB _ (pure _) (fun _ => pure _) (pure _) (pure _)

/-! ### Stripe decoders -/

theorem decodeCode (f : Family) : Sound (Machine.decodeCode f) := by
  have ha : Sound decodeACode :=
    get_bind fun _ => walkFamilyA _ applyARep (fun _ => onePixel _) (fun _ => onePixel _) applyARun
  have hb : Sound decodeBCode :=
    get_bind fun _ => walkFamilyB _ applyBRep (fun _ => onePixel _) (onePixel _) (onePixel _)
  cases f
  · exact ha
  · exact ha
  · exact hb
  · exact hb

theorem decodeFirst : Sound Machine.decodeFirst :=
  (readNbits 8).bind fun _ => (setDp _).bind fun _ => (put _ _).bind fun _ => setDp _

theorem decodeStripe (st : Nat) (f : Family) (tr : Bool) : Sound (Machine.decodeStripe st f tr) :=
  update_bind (fun _ => rfl) fun _ => decodeFirst.bind fun _ => get_bind fun _ => (decodeCode f).loop _ _

theorem dispatchType (f : Family) (tcap : Bool) (shr : ShiftWidth) : Sound (Machine.dispatchType f tcap shr) := by
  intro s hs
  rw [dispatchType_run]
  exact decodeStripe _ _ _ hs

theorem fetchType : Sound Machine.fetchType :=
  get_bind fun _ => ite (throw (by decide)) <| (readLE _ _).bind fun _ => update_bind (fun _ => rfl) fun _ =>
    get_bind fun _ => ite (throw (by decide)) (readByte _)

theorem decodeRecord (st : Nat) : Sound (Machine.decodeRecord st) := by
  refine update_bind (fun _ => rfl) fun _ => fetchType.bind fun b => ?_
  rcases decodeType b with _ | ⟨f, tcap, shr⟩
  · exact update fun _ => rfl
  · exact dispatchType f tcap shr

theorem decodeImage : Sound Machine.decodeImage := launch fun _ => (each decodeRecord _ _).bind fun _ => pure 0

/-! ### The mask codec -/

theorem nextByte : Sound Machine.nextByte :=
  get_bind fun _ => ite (throw (by decide)) ((readByte _).bind fun _ => (setMask _).bind fun _ => pure _)

theorem writeRow (y : Nat) (v : Byte) : Sound (Machine.writeRow y v) :=
  get_bind fun _ => ite ((readByte _).bind fun _ => writeByte _ _) (writeByte _ _)

theorem repeatRows (v : Byte) (n y : Nat) : Sound (Machine.repeatRows v n y) := by
  induction n generalizing y with
  | zero => exact pure ()
  | succ n ih => exact (writeRow y v).bind fun _ => ih (y + 1)

theorem literalRows (n y : Nat) : Sound (Machine.literalRows n y) := by
  induction n generalizing y with
  | zero => exact pure ()
  | succ n ih => exact nextByte.bind fun _ => (writeRow y _).bind fun _ => ih (y + 1)

theorem applyMRep (n : BitVec 7) (v : Byte) : Sound (Machine.applyMRep n v) :=
  ite (throw (by decide)) (get_bind fun _ => (repeatRows _ _ _).bind fun _ => setMask _)

theorem applyMLit (n : BitVec 7) : Sound (Machine.applyMLit n) :=
  ite (throw (by decide)) (get_bind fun _ => (literalRows _ _).bind fun _ => setMask _)

theorem applyMReserved : Sound Machine.applyMReserved := throw (by decide)

/-- The forms of a mask run, whatever is done with a run (R192). -/
theorem walkMaskRun {cases : MCases (Act α)} (hrep : ∀ n v, Sound (cases.rep n v)) (hlit : ∀ n, Sound (cases.lit n))
    (h0 : Sound cases.rsvLit0) (h80 : Sound cases.rsvRep0) : Sound (walkM Machine.nextByte cases) :=
  nextByte.bind fun _ => ite h0 <| ite h80 <| ite (hlit _) (nextByte.bind fun _ => hrep _ _)

theorem fetchMaskRun : Sound Machine.fetchMaskRun :=
  walkMaskRun (fun _ _ => pure _) (fun _ => pure _) (pure _) (pure _)

theorem decodeColumn (st ofs : Nat) : Sound (Machine.decodeColumn st ofs) :=
  update_bind (fun _ => rfl) fun _ => get_bind fun _ => (setMask _).bind fun _ =>
    (walkMaskRun applyMRep applyMLit applyMReserved applyMReserved).loop _ _

theorem decodeMaskStripe (st : Nat) : Sound (Machine.decodeMaskStripe st) :=
  update_bind (fun _ => rfl) fun _ => get_bind fun _ => ite (throw (by decide)) <| (readLE _ _).bind fun _ =>
    ite (get_bind fun _ => ite (pure ()) (repeatRows _ _ _)) (decodeColumn _ _)

theorem decodeMask : Sound Machine.decodeMask := launch fun _ => (each decodeMaskStripe _ _).bind fun _ => pure 0

theorem readColumn (n y : Nat) : Sound (Machine.readColumn n y) := by
  induction n generalizing y with
  | zero => exact pure []
  | succ n ih => exact get_bind fun _ => (readByte _).bind fun _ => (ih (y + 1)).bind fun _ => pure _

theorem encodeColumn (st : Nat) : Sound (Machine.encodeColumn st) :=
  update_bind (fun _ => rfl) fun _ => get_bind fun _ => (readColumn _ _).bind fun _ => setMask _

theorem sizeColumn (st : Nat) : Sound (Machine.sizeColumn st) :=
  update_bind (fun _ => rfl) fun _ => get_bind fun _ => (readColumn _ _).bind fun _ => ite (setMask _) <|
    get_bind fun _ => ite (throw (by decide)) <| (encodeColumn st).bind fun _ => (setMask _).bind fun _ => update fun _ => rfl

theorem encodeMask : Sound Machine.encodeMask :=
  launch fun _ => update_bind (fun _ => rfl) fun _ => (setMask _).bind fun _ => (each sizeColumn _ _).bind fun _ =>
    get_bind fun _ => ite (throw (by decide)) <| (writeBytes _ _).bind fun _ => (writeBytes _ _).bind fun _ => pure _

/-! ### Stripe encoders -/

theorem readPixels (f : Family) (n k : Nat) : Sound (Machine.readPixels f n k) := by
  induction n generalizing k with
  | zero => exact pure []
  | succ n ih => exact get_bind fun _ => (readByte _).bind fun _ => (ih (k + 1)).bind fun _ => pure _

theorem scanWidth (n k : Nat) : Sound (Machine.scanWidth n k) := by
  induction n generalizing k with
  | zero => exact pure ()
  | succ n ih =>
    exact get_bind fun _ => (readByte _).bind fun _ => (setDp _).bind fun _ => get_bind fun _ => ite (pure ()) (ih (k + 1))

theorem computeShr (st : Nat) : Sound (Machine.computeShr st) :=
  update_bind (fun _ => rfl) fun _ => (setDp _).bind fun _ => get_bind fun _ => scanWidth _ _

theorem encodeFamily (f : Family) (st : Nat) : Sound (Machine.encodeFamily f st) := by
  rw [encodeFamily_eq]
  exact update_bind (fun _ => rfl) fun _ => get_bind fun _ => (readByte _).bind fun _ => get_bind fun _ =>
    (readPixels _ _ _).bind fun _ => get_bind fun _ => update fun _ => rfl

theorem encodeCandidates (st : Nat) (fs : List Family) : Sound (Machine.encodeCandidates st fs) := by
  induction fs with
  | nil => exact pure ()
  | cons f fs ih => exact (encodeFamily f st).bind fun _ => update_bind (fun _ => rfl) fun _ => ih

theorem selectStripe (st : Nat) : Sound (Machine.selectStripe st) :=
  (computeShr st).bind fun _ => (encodeCandidates st _).bind fun _ => update fun _ => rfl

end Sound

/-! ### The image encoder -/

/-- An image encode that answers a next state has failed its precondition, or was launched (R213, R61, R62). -/
theorem exec_encImage_launched {s t : State} (hbusy : s.regs.status.busy = false) (h : exec .encImage s = .next t) :
    t.regs.status.err = .precond ∨ s.Startable ∧ s.Launchable .encImage := by
  by_cases hpre : s.regs.width.toNat % 8 ≠ 0 ∨ s.regs.height = 0
  · have hstop : encodeImage.run (startCommand s) = .error (.raise .precond) (startCommand s) := by
      rw [encodeImage, EStateM.run_bind, checkPrecond_run,
        if_pos (show (startCommand s).regs.width.toNat % 8 ≠ 0 ∨ (startCommand s).regs.height = 0 from hpre)]
    obtain rfl := Host.Outcome.next.inj ((runCommand_raise hbusy hstop).symm.trans h)
    exact .inl rfl
  · rw [not_or, not_not] at hpre
    have hstart : s.Startable := ⟨hbusy, hpre⟩
    obtain ⟨hrange, hoverlap⟩ := launchPremises .encImage s (.inl rfl) hstart
    have hfit : s.addressesFit (s.rowLen .encImage) = true := by
      refine Bool.not_eq_false _ |>.mp fun hf => ?_
      rw [hrange hf] at h
      cases h
    refine .inr ⟨hstart, hfit, Bool.not_eq_false _ |>.mp fun hf => ?_⟩
    rw [hoverlap hfit hf] at h
    cases h

/-- An image encode completes with no error but `ERR_PRECOND` and `ERR_NOSPACE` (R156). -/
theorem exec_encImage_err {s t : State} (hbusy : s.regs.status.busy = false) (h : exec .encImage s = .next t) :
    t.regs.status.err = .precond ∨ t.regs.status.err = .ok ∨ t.regs.status.err = .noSpace := by
  rcases exec_encImage_launched hbusy h with hpre | ⟨⟨_, hwidth, hheight⟩, hfit, hdisjoint⟩
  · exact .inl hpre
  obtain ⟨u, _, hok, hfull⟩ := encodeImage_run (s := startCommand s) rfl hwidth hheight hfit hdisjoint rfl
  rcases le_or_gt (imageBlob s.regs.transpEn s.picture s.regs.height.toNat s.stripes).length s.regs.blobSize.toNat with
    hlen | hlen
  · obtain rfl := Host.Outcome.next.inj ((runCommand_ok hbusy (hok hlen).1).symm.trans h)
    exact .inr (.inl rfl)
  · obtain rfl := Host.Outcome.next.inj ((runCommand_raise hbusy (hfull hlen).1).symm.trans h)
    exact .inr (.inr rfl)

/-! ### Every step -/

theorem raiseError_noAcct {e : Err} (he : Stop.raise e ≠ .raise .acct) (s : State) : (raiseError e s).NoAcct :=
  fun h => he (congrArg Stop.raise h)

theorem Sound.runUnit {body : Act Unit} (hb : Sound body) {s t : State} (hs : s.NoAcct) (ht : runUnit body s = .next t) :
    t.NoAcct := by
  rcases Triple.runUnit hb hs ht with hend | ⟨e, t', he, rfl⟩
  · exact hend
  · exact raiseError_noAcct he t'

theorem Sound.runCommand {body : Act Nat} (hb : Sound body) {s t : State} (hs : s.NoAcct)
    (ht : runCommand body s = .next t) : t.NoAcct := by
  have hstart : (startCommand s).NoAcct := Err.noConfusion
  rcases Triple.runCommand hb hstart ht with ⟨_, rfl⟩ | ⟨n, t', _, rfl⟩ | ⟨e, t', he, rfl⟩
  · exact hs
  · exact Err.noConfusion
  · exact raiseError_noAcct he t'

theorem encImage_noAcct {s t : State} (hs : s.NoAcct) (ht : exec .encImage s = .next t) : t.NoAcct := by
  cases hbusy : s.regs.status.busy with
  | true =>
    obtain rfl := Host.Outcome.next.inj ((runCommand_busy hbusy).symm.trans ht)
    exact hs
  | false => rcases exec_encImage_err hbusy ht with h | h | h <;> rw [State.NoAcct, h] <;> decide

/-- No instruction completes with `ERR_ACCT` (R158). -/
theorem exec_noAcct {i : Instr} {s t : State} (hs : s.NoAcct) (ht : exec i s = .next t) : t.NoAcct := by
  have hdecoder (f : Family) (tr : Bool) (st : Dim) (hd : exec (decoderInstr f tr st) s = .next t) : t.NoAcct := by
    rw [exec_decoderInstr] at hd
    exact Sound.runUnit (.decodeStripe _ f tr) hs hd
  cases i with
  | encImage => exact encImage_noAcct hs ht
  | decImage => exact Sound.runCommand .decodeImage hs ht
  | encMask => exact Sound.runCommand .encodeMask hs ht
  | decMask => exact Sound.runCommand .decodeMask hs ht
  | bpInit | bpFlush => cases ht; exact hs
  | bpWriteBit b => exact Sound.runUnit (.packerWrite _ _) hs ht
  | bpWriteNbits v n => exact Sound.runUnit (.packerWrite _ _) hs ht
  | bpWriteByte v => exact Sound.runUnit (.packerWrite _ _) hs ht
  | buInit start stop => exact Sound.runUnit (.unpackerInit _ _) hs ht
  | buFill => exact Sound.runUnit .unpackerFill hs ht
  | buReadBit => exact Sound.runUnit ((Sound.readNbits 1).bind fun _ => .pure ()) hs ht
  | buReadNbits n => exact Sound.runUnit ((Sound.readNbits _).bind fun _ => .pure ()) hs ht
  | computeShr st => exact Sound.runUnit (.computeShr _) hs ht
  | select st => exact Sound.runUnit (.selectStripe _) hs ht
  | encMaskCol st => exact Sound.runUnit (.encodeColumn _) hs ht
  | decMaskCol st ofs => exact Sound.runUnit (.decodeColumn _ _) hs ht
  | encA st => exact Sound.runUnit (.encodeFamily .a _) hs ht
  | encA6 st => exact Sound.runUnit (.encodeFamily .a6 _) hs ht
  | encB st => exact Sound.runUnit (.encodeFamily .b _) hs ht
  | encC st => exact Sound.runUnit (.encodeFamily .c _) hs ht
  | decA st => exact hdecoder .a false st ht
  | decA6 st => exact hdecoder .a6 false st ht
  | decB st => exact hdecoder .b false st ht
  | decC st => exact hdecoder .c false st ht
  | decAT st => exact hdecoder .a true st ht
  | decA6T st => exact hdecoder .a6 true st ht
  | decBT st => exact hdecoder .b true st ht
  | decCT st => exact hdecoder .c true st ht
  | aRep => exact Sound.runUnit .applyARep hs ht
  | aLit v => exact Sound.runUnit (.onePixel _) hs ht
  | aDelta d => exact Sound.runUnit (.onePixel _) hs ht
  | aRun n => exact Sound.runUnit (.applyARun _) hs ht
  | bRep => exact Sound.runUnit .applyBRep hs ht
  | bLit v => exact Sound.runUnit (.onePixel _) hs ht
  | bStep => exact Sound.runUnit (.onePixel _) hs ht
  | bRev => exact Sound.runUnit (.onePixel _) hs ht
  | mRep n v => exact Sound.runUnit (.applyMRep _ _) hs ht
  | mLit n => exact Sound.runUnit (.applyMLit _) hs ht
  | mRsvLit0 | mRsvRep0 => exact Sound.runUnit .applyMReserved hs ht
  -- The forty type bytes (R74).
  | _ => exact Sound.runUnit (.dispatchType _ _ _) hs ht

/-- An outcome whose next state, if it has one, shows no `ERR_ACCT`. -/
def NoAcctOutcome (o : Host.Outcome State Fault Refusal) : Prop := ∀ t, o = .next t → t.NoAcct

/-- What a request turns out to be shows no `ERR_ACCT`. -/
def NoAcctFetched : Fetched → Prop
  | .run _ s => s.NoAcct
  | .settled o => NoAcctOutcome o

theorem noAcctOutcome_next {s : State} (h : s.NoAcct) : NoAcctOutcome (.next s) := fun _ ht => by cases ht; exact h

theorem noAcctOutcome_refused (r : Refusal) : NoAcctOutcome (.refused r) := fun _ ht => by cases ht

theorem noAcctOutcome_stopped {e : Stop} (he : e ≠ .raise .acct) (s : State) : NoAcctOutcome (stopped e s) := by
  cases e with
  | raise e => exact noAcctOutcome_next (raiseError_noAcct he s)
  | fault f => exact fun _ ht => by cases ht
  | refuse r => exact noAcctOutcome_refused r

theorem fetchBy_noAcct {read : Act Instr} (hr : Sound read) {s : State} (hs : s.NoAcct) : NoAcctFetched (fetchBy read s) := by
  have hend := hr hs
  rw [fetchBy]
  cases hrun : read.run s <;> rw [hrun] at hend
  · exact hend
  · exact noAcctOutcome_stopped hend _

theorem fetchTypeInstr_noAcct {s : State} (hs : s.NoAcct) : NoAcctFetched (fetchTypeInstr s) := by
  have hend := Sound.fetchType hs
  rw [fetchTypeInstr]
  cases hrun : fetchType.run s with
  | error e t =>
    rw [hrun] at hend
    exact noAcctOutcome_stopped hend t
  | ok b t =>
    rw [hrun] at hend
    cases hd : decode .type s.dp.shr [b] with
    | ok i =>
      simp only [hd]
      exact hend
    | error e =>
      simp only [hd]
      exact noAcctOutcome_next hend

theorem writeArgument_status (r : Regs) (off v : Word) : (r.writeArgument off v).status = r.status := by
  unfold Regs.writeArgument
  split <;> rfl

/-- `STATUS` is read-only to the host (R32). -/
theorem writeRegister_status (s : State) (off v : Word) : (writeRegister s off v).regs.status = s.regs.status := by
  rw [writeRegister]
  split
  · rfl
  · split
    · rfl
    · exact writeArgument_status s.regs off v

theorem fetchRequest_noAcct (r : Request) {s : State} (hs : s.NoAcct) : NoAcctFetched (fetchRequest r s) := by
  cases r with
  | regWrite off v =>
    rw [fetchRequest, fetchWrite]
    split
    · split
      · cases decode .cmd s.dp.shr [v.setWidth 8] with
        | ok i => exact hs
        | error e =>
          refine noAcctOutcome_next ?_
          rw [illegalCommand]
          split
          · exact hs
          · exact raiseError_noAcct (by decide) _
      · exact noAcctOutcome_next (by rw [State.NoAcct, writeRegister_status]; exact hs)
    · exact noAcctOutcome_refused _
  | regRead off =>
    rw [fetchRequest, fetchRead]
    split
    · exact noAcctOutcome_next hs
    · exact noAcctOutcome_refused _
  | bpop lines | buop lines | uop lines =>
    rw [fetchRequest, fetchSelect]
    split
    · exact hs
    · exact noAcctOutcome_refused _
  | nextType => rw [fetchRequest]; exact fetchTypeInstr_noAcct hs
  | nextACode => rw [fetchRequest]; exact fetchBy_noAcct .fetchACode hs
  | nextBCode => rw [fetchRequest]; exact fetchBy_noAcct .fetchBCode hs
  | nextRun => rw [fetchRequest]; exact fetchBy_noAcct .fetchMaskRun hs

/-- Settles O19. -/
theorem accountingErrorNeverRaised : Obligations.AccountingErrorNeverRaised := by
  intro s t hs hstep
  have hfetch : NoAcctFetched (fetch s) := by
    rw [fetch]
    cases s.bus with
    | nil => exact noAcctOutcome_next hs
    | cons r rest => exact fetchRequest_noAcct r hs
  rw [step] at hstep
  cases hr : fetch s with
  | run i u =>
    rw [hr] at hfetch hstep
    exact exec_noAcct hfetch hstep
  | settled o =>
    rw [hr] at hfetch hstep
    exact hfetch t hstep

end Sys2Proof.Machine

namespace Sys2Proof.Machine

/-! ## Slices of a byte string in memory -/

theorem Memory.bytes_add (m : Memory) (a i j : Nat) : m.bytes a (i + j) = m.bytes a i ++ m.bytes (a + i) j := by
  rw [Memory.bytes, ← List.range'_append_1, List.map_append, Memory.bytes, Memory.bytes]

/-- Bytes in the middle of a byte string lie behind those before them. -/
theorem Memory.bytes_slice {m : Memory} {a : Nat} {before mid after : List Byte}
    (h : m.bytes a (before ++ mid ++ after).length = before ++ mid ++ after) :
    m.bytes (a + before.length) mid.length = mid := by
  rw [List.length_append, List.length_append, Memory.bytes_add, Memory.bytes_add] at h
  obtain ⟨hfront, _⟩ := List.append_inj h (by simp only [List.length_append, Memory.bytes_length])
  exact (List.append_inj hfront (Memory.bytes_length _ _ _)).2

/-- Four little-endian bytes read back as their number (R52). -/
theorem read_bytesLE {m : Memory} {a v : Nat} (hv : v < 2 ^ 32) (h : m.bytes a 4 = bytesLE 4 v) :
    (m.read a).toNat + 256 * (m.read (a + 1)).toNat + 65536 * (m.read (a + 2)).toNat +
      16777216 * (m.read (a + 3)).toNat = v := by
  simp only [Memory.bytes_succ, bytesLE, List.cons.injEq] at h
  obtain ⟨h0, h1, h2, h3, _⟩ := h
  rw [h0, h1, h2, h3]
  simp only [BitVec.toNat_ofNat]
  omega

/-! ## What a picture's blob holds for a stripe -/

theorem range_split {st n : Nat} (hst : st < n) : ∃ rest, List.range n = List.range st ++ [st] ++ rest := by
  obtain ⟨k, rfl⟩ := Nat.exists_eq_add_of_le (Nat.succ_le_of_lt hst)
  exact ⟨_, by rw [List.range_add, List.range_succ]⟩

/-- The offset entry of a stripe stands in the blob behind those of the stripes before it (R76). -/
theorem imageBlob_entry (en : Bool) (p : Picture) (h : Nat) {n st : Nat} (hst : st < n) : ∃ before after,
    imageBlob en p h n = before ++ bytesLE 4 (imageOffset en p h n st) ++ after ∧ before.length = 4 * st := by
  obtain ⟨rest, hrange⟩ := range_split hst
  refine ⟨(List.range st).flatMap fun j => bytesLE 4 (imageOffset en p h n j),
    (rest.flatMap fun j => bytesLE 4 (imageOffset en p h n j)) ++ (List.range n).flatMap (imageRecord en p h), ?_, ?_⟩
  · rw [imageBlob]
    conv_lhs => enter [1]; rw [hrange]
    rw [List.flatMap_append, List.flatMap_append, List.flatMap_singleton, List.append_assoc _ (List.flatMap _ rest)]
  · simp only [List.length_flatMap, bytesLE_length, List.map_const', List.sum_replicate_nat, List.length_range]
    omega

/-- The record of a stripe stands in the blob at its offset (R76). -/
theorem imageBlob_record (en : Bool) (p : Picture) (h : Nat) {n st : Nat} (hst : st < n) : ∃ before after,
    imageBlob en p h n = before ++ imageRecord en p h st ++ after ∧ before.length = imageOffset en p h n st := by
  obtain ⟨rest, hrange⟩ := range_split hst
  refine ⟨((List.range n).flatMap fun j => bytesLE 4 (imageOffset en p h n j)) ++ (List.range st).flatMap (imageRecord en p h),
    rest.flatMap (imageRecord en p h), ?_, ?_⟩
  · rw [imageBlob]
    conv_lhs => enter [2]; rw [hrange]
    rw [List.flatMap_append, List.flatMap_append, List.flatMap_singleton]
    simp only [List.append_assoc]
  · simp only [List.length_append, List.length_flatMap, bytesLE_length, List.map_const', List.sum_replicate_nat,
      List.length_range, imageOffset, Config.smapOfsBias]
    omega

/-- What `DEC_IMAGE` finds in a picture's blob for a stripe: the first pixel and the codes of the best family (R156, R170). -/
def pictureFound (en : Bool) (p : Picture) (h st : Nat) : StripeFound :=
  .record (bestFamily p h st) en (leastWidth (stripeOf p h .a st).tail) ((stripeOf p h (bestFamily p h st) st).headD 0)
    (codesOf (bestFamily p h st) ((stripeOf p h (bestFamily p h st) st).headD 0) (stripeOf p h (bestFamily p h st) st).tail)

/-- The bits of packed codes are the codes' bits and a pad (R79). -/
theorem streamBits_packBits_starts (bits : List Bool) : bits <+: streamBits (packBits bits) := by
  obtain ⟨p, hok, rfl⟩ := exists_packer_bits bits
  obtain ⟨k, _, hpad⟩ := streamBits_packBits_zeros hok
  exact ⟨_, hpad.symm⟩

theorem stripeOf_length (p : Picture) (h : Nat) (f : Family) (st : Nat) : (stripeOf p h f st).length = 8 * h := by
  rw [stripeOf, List.length_map, List.length_range]

/-- The shift width of a stripe holds its pixels after the first, in every order (R121). -/
theorem leastWidth_holds (p : Picture) (h : Nat) (f : Family) (st : Nat) :
    WidthHolds (leastWidth (stripeOf p h .a st).tail) (stripeOf p h f st).tail :=
  fun v hv => (leastWidth_le_iff _ _).mp le_rfl v (mem_tail_stripeOf hv)

section
variable {s : State} {en : Bool} {p : Picture} {n st : Nat}

/-- The offset entry and the record of a stripe, where a picture's blob is in memory. -/
theorem imageBlob_in_memory (hlen : (imageBlob en p s.regs.height.toNat n).length ≤ s.regs.blobSize.toNat)
    (hblob : s.mem.bytes s.regs.blobBase.toNat (imageBlob en p s.regs.height.toNat n).length =
      imageBlob en p s.regs.height.toNat n) (hst : st < n) :
    4 * st + 4 ≤ s.regs.blobSize.toNat ∧ (s.onStripe st).tableEntry = imageOffset en p s.regs.height.toNat n st ∧
      imageOffset en p s.regs.height.toNat n st + (imageRecord en p s.regs.height.toNat st).length ≤ s.regs.blobSize.toNat ∧
      s.mem.bytes (s.regs.blobBase.toNat + imageOffset en p s.regs.height.toNat n st)
        (imageRecord en p s.regs.height.toNat st).length = imageRecord en p s.regs.height.toNat st := by
  obtain ⟨before, after, hsplit, hbefore⟩ := imageBlob_record en p s.regs.height.toNat hst
  obtain ⟨before', after', hsplit', hbefore'⟩ := imageBlob_entry en p s.regs.height.toNat hst
  have hentry := hblob
  rw [hsplit] at hblob hlen
  rw [hsplit'] at hentry
  have hrecord := Memory.bytes_slice hblob
  have htable := Memory.bytes_slice hentry
  have hsize := congrArg List.length (hsplit.symm.trans hsplit')
  simp only [List.length_append, bytesLE_length] at hlen hsize htable
  rw [hbefore] at hrecord
  rw [hbefore'] at htable
  have hofs : imageOffset en p s.regs.height.toNat n st < 2 ^ 32 := by
    have hspace : s.regs.blobSize.toNat < 2 ^ 32 := s.regs.blobSize.isLt
    omega
  exact ⟨by omega, read_bytesLE hofs htable, by omega, hrecord⟩

/-- A picture's blob in memory holds the records of its stripes (R76, R170). -/
theorem finds_of_imageBlob (hheight : s.regs.height ≠ 0)
    (hlen : (imageBlob en p s.regs.height.toNat n).length ≤ s.regs.blobSize.toNat)
    (hblob : s.mem.bytes s.regs.blobBase.toNat (imageBlob en p s.regs.height.toNat n).length =
      imageBlob en p s.regs.height.toNat n) (hst : st < n) :
    s.Finds st (pictureFound en p s.regs.height.toNat st) := by
  obtain ⟨htable, hentry, hfits, hrecord⟩ := imageBlob_in_memory hlen hblob hst
  obtain ⟨p0, ps, hpix⟩ := List.exists_cons_of_ne_nil
    (stripeOf_ne_nil p hheight (bestFamily p s.regs.height.toNat st) st)
  have hwide := leastWidth_holds p s.regs.height.toNat (bestFamily p s.regs.height.toNat st) st
  have hcount : ps.length + 1 = s.npix := by
    rw [State.npix, ← stripeOf_length p s.regs.height.toNat (bestFamily p s.regs.height.toNat st) st, hpix, List.length_cons]
  rw [imageRecord, List.length_cons, Memory.bytes_succ, List.cons.injEq] at hrecord
  obtain ⟨htype, hstream⟩ := hrecord
  rw [imageRecord, List.length_cons] at hfits
  rw [hpix, List.tail_cons] at hwide
  have hcodes := codesOf_familyCodes (bestFamily p s.regs.height.toNat st) p0 hwide
  rw [pictureFound, hpix, List.headD_cons, List.tail_cons]
  refine ⟨⟨htable, by omega⟩, ?_, hcodes, ?_, ?_⟩
  · rw [State.typeOf, hentry]
    exact htype
  · refine Covers.of_pixelCount hcodes ?_ ?_
    · rw [← paint_length p0 .down, paint_codesOf]
      omega
    · have := dim_pos hheight
      rw [State.npix]
      omega
  · have hrest : s.blobEnd - (s.regs.blobBase.toNat + imageOffset en p s.regs.height.toNat n st + 1) =
        (bestOf p s.regs.height.toNat st).stream.length + (s.regs.blobSize.toNat - imageOffset en p s.regs.height.toNat n st -
          1 - (bestOf p s.regs.height.toNat st).stream.length) := by
      rw [State.blobEnd]
      omega
    have hbits : (bestOf p s.regs.height.toNat st).stream = packBits (streamOf
        (leastWidth (stripeOf p s.regs.height.toNat .a st).tail) p0 (codesOf (bestFamily p s.regs.height.toNat st) p0 ps)) := by
      rw [bestOf, hpix]
      rfl
    rw [State.bitsAfterType, hentry, hrest, Memory.bytes_add, hstream, hbits, streamBits_append]
    exact (streamBits_packBits_starts _).trans ⟨_, rfl⟩

end

end Sys2Proof.Machine

namespace Sys2Proof.Machine

/-! ## One stripe of `DEC_IMAGE` -/

/-- A decode command at work: what its launch tests have found (R213, R61, R62) and the invariant. -/
structure State.DecodeLaunched (s : State) : Prop where
  inv : s.Inv
  running : s.Running
  height : s.regs.height ≠ 0
  fit : s.addressesFit s.regs.width.toNat = true
  disjoint : s.regionsDisjoint s.regs.width.toNat = true

section
variable {s : State} {st : Nat}

theorem State.DecodeLaunched.blobEnd (hs : s.DecodeLaunched) (hst : st < s.stripes) : s.blobEnd ≤ Config.addrSpace :=
  (addressesFit_bounds hs.fit (width_ne_zero hst)).2

/-- With a blob of at least one byte, the picture's cells are no bytes of the blob (R61). -/
theorem State.DecodeLaunched.cell_apart (hs : s.DecodeLaunched) (hsize : s.regs.blobSize.toNat ≠ 0) {y x : Nat}
    (hy : y < s.regs.height.toNat) (hx : x < s.regs.width.toNat) :
    s.cellAddr y x < s.regs.blobBase.toNat ∨ s.blobEnd ≤ s.cellAddr y x := by
  obtain ⟨hlow, hhigh⟩ := cellAddr_bounds hy hx
  have hne : s.regs.blobSize ≠ 0 := fun h0 => hsize (congrArg BitVec.toNat h0)
  have hapart := hs.disjoint
  simp only [State.regionsDisjoint, Bool.or_eq_true, decide_eq_true_eq, hne, or_false] at hapart
  rw [State.blobEnd]
  omega

/-- The offset entry and the type byte of a stripe that has them (R170, R171). -/
theorem fetchType_run (hrun : s.Running) (hblob : s.blobEnd ≤ Config.addrSpace)
    (htable : 4 * s.sel.stripe + 4 ≤ s.regs.blobSize.toNat) (htype : s.tableEntry < s.regs.blobSize.toNat) :
    fetchType.run s = .ok (s.mem.read (s.regs.blobBase.toNat + s.tableEntry)) (s.withEntry s.tableEntry) := by
  rw [State.blobEnd] at hblob
  have hentry : (readLE 4 (s.regs.blobBase.toNat + 4 * s.sel.stripe)).run s = .ok s.tableEntry s :=
    (littleEndianReads s _ hrun).2 (by omega)
  have hbyte : (readByte (s.regs.blobBase.toNat + s.tableEntry)).run (s.withEntry s.tableEntry) =
      .ok (s.mem.read (s.regs.blobBase.toNat + s.tableEntry)) (s.withEntry s.tableEntry) := by
    have hreach : (s.withEntry s.tableEntry).reaches (s.regs.blobBase.toNat + s.tableEntry) = true :=
      (State.reaches_iff _ _).mpr ⟨hrun, by omega⟩
    rw [readByte_run, if_pos hreach]
    rfl
  rw [fetchType]
  simp only [EStateM.run_bind, EStateM.run_get]
  rw [if_neg (not_lt.mpr htable), EStateM.run_bind, hentry]
  show (if s.regs.blobSize.toNat ≤ s.tableEntry then throw (.raise .trunc)
    else readByte (s.regs.blobBase.toNat + s.tableEntry) : Act Byte).run (s.withEntry s.tableEntry) = _
  rw [if_neg (not_le.mpr htype), hbyte]

/-- A stripe whose type byte is found is dispatched, or skipped with a warning (R170, R174). -/
theorem decodeRecord_run (hrun : s.Running) (hblob : s.blobEnd ≤ Config.addrSpace) (htype : s.HasType st) :
    (decodeRecord st).run s = (match decodeType (s.typeOf st) with
      | none => modify warn
      | some (f, tcap, shr) => dispatchType f tcap shr : Act Unit).run
        ((s.onStripe st).withEntry (s.onStripe st).tableEntry) := by
  obtain ⟨htable, hentry⟩ := htype
  have hfetch := fetchType_run (s := s.onStripe st) hrun hblob htable hentry
  show (do let b ← fetchType
           match decodeType b with
           | none => modify warn
           | some (f, tcap, shr) => dispatchType f tcap shr : Act Unit).run (s.onStripe st) = _
  rw [EStateM.run_bind, hfetch]
  rfl

/-- What a stripe decoder needs, when the type byte of one of the picture's stripes has been dispatched (R173). -/
theorem State.DecodeLaunched.stripeReady (hs : s.DecodeLaunched) (hst : st < s.stripes) (hsize : s.regs.blobSize.toNat ≠ 0)
    {f : Family} (tcap : Bool) {shr : ShiftWidth} {codes : List Instr} (hcodes : FamilyCodes f shr codes) (e : Nat) :
    (((s.onStripe st).withEntry e).dispatched tcap shr).StripeReady f st codes := by
  refine ⟨⟨hs.inv.mem, hs.inv.bp, Unpacker.init_ok _ _ _, hs.inv.run, hs.inv.litcnt⟩, hs.running, hs.height,
    hs.blobEnd hst, fun k hk => ?_, hcodes⟩
  obtain ⟨hrow, hcol⟩ := pixelPos_bounds f (show k < 8 * s.regs.height.toNat from hk)
  have hregion := (addressesFit_bounds hs.fit (width_ne_zero hst)).1
  have hplace := (pixelAddr_bounds hst f hk).2
  have hapart := hs.cell_apart hsize hrow (stripe_column_lt hst hcol)
  rw [← pixelAddr_eq_cellAddr] at hapart
  show (s.onStripe st).pixelAddr f k < Config.addrSpace ∧ ((s.onStripe st).pixelAddr f k < s.regs.blobBase.toNat + e + 1 ∨
    s.blobEnd ≤ (s.onStripe st).pixelAddr f k)
  omega

/-- How one stripe changes the state that a decode shows: the pixels, the running `HAS_TRANSP` and the warnings. -/
structure FoundAfter (s : State) (st : Nat) (x : StripeFound) (t : State) : Prop where
  regs : t.regs = { s.regs with warnCnt := s.regs.warnCnt + BitVec.ofNat Config.dimw x.skips.toNat }
  transp : t.sel.hasTransp = (s.sel.hasTransp || x.capable)
  mem : t.mem = s.putFound st s.mem x
  bp : t.bp = s.bp
  mask : t.mask = s.mask
  bus : t.bus = s.bus
  rdata : t.rdata = s.rdata

/-- A stripe that does not end the decode is put or skipped (R170, R174, R177). -/
theorem decodeRecord_found (hs : s.DecodeLaunched) (hst : st < s.stripes) {x : StripeFound} (hfind : s.Finds st x) :
    ∃ t, (decodeRecord st).run s = .ok () t ∧ FoundAfter s st x t := by
  cases x with
  | skipped =>
    obtain ⟨htype, hnone⟩ := hfind
    rw [decodeRecord_run hs.running (hs.blobEnd hst) htype, hnone]
    exact ⟨_, rfl, rfl, (Bool.or_false _).symm, rfl, rfl, rfl, rfl, rfl⟩
  | record f tcap shr p0 codes =>
    obtain ⟨htype, hbyte, hcodes, hcovers, hbits⟩ := hfind
    obtain ⟨more, hmore⟩ := hbits
    have hsize : s.regs.blobSize.toNat ≠ 0 := by
      obtain ⟨htable, _⟩ := htype
      omega
    obtain ⟨u, hdecode, _, _⟩ := decodeStripe_covered (tcap && s.regs.transpEn)
      (hs.stripeReady hst hsize tcap hcodes (s.onStripe st).tableEntry) hcovers hmore.symm
    rw [decodeRecord_run hs.running (hs.blobEnd hst) htype, (typeByteTable.1 _ _ _ _).mpr hbyte]
    refine ⟨_, (dispatchType_run f tcap shr _).trans hdecode, ?_, rfl, ?_, rfl, rfl, rfl, rfl⟩
    · have hwarn : s.regs.warnCnt + BitVec.ofNat Config.dimw 0 = s.regs.warnCnt := BitVec.add_zero _
      show s.regs = { s.regs with warnCnt := s.regs.warnCnt + BitVec.ofNat Config.dimw 0 }
      rw [hwarn]
    · exact State.putColors_regs (s := s) (t := ((s.onStripe st).withEntry (s.onStripe st).tableEntry).dispatched tcap shr)
        rfl f _ st 0 _ s.mem

/-! ## All stripes of `DEC_IMAGE` -/

theorem putStripes_append (s : State) (st : Nat) (xs ys : List StripeFound) (m : Memory) :
    s.putStripes st (xs ++ ys) m = s.putStripes (st + xs.length) ys (s.putStripes st xs m) := by
  induction xs generalizing st m with
  | nil => rfl
  | cons x xs ih =>
    rw [List.cons_append, State.putStripes, State.putStripes, ih, List.length_cons, Nat.add_right_comm, Nat.add_assoc]

end

/-- Where and how colours are put does not depend on the warnings counted so far. -/
theorem putColors_arguments {s t : State} (h : t.regs.arguments = s.regs.arguments) (f : Family) (tr : Bool) (st k : Nat)
    (cs : List Byte) (m : Memory) : t.putColors f tr st k cs m = s.putColors f tr st k cs m := by
  have hframe : Framed (fun _ => True) s t := ⟨h, fun _ hn => (hn trivial).elim⟩
  have hcolor : t.regs.transpColor = s.regs.transpColor := (congrArg Regs.transpColor h :)
  have hpalmod : t.regs.palmod = s.regs.palmod := (congrArg Regs.palmod h :)
  induction cs generalizing k m with
  | nil => rfl
  | cons c cs ih =>
    have haddr : (t.onStripe st).pixelAddr f k = (s.onStripe st).pixelAddr f k := by
      rw [pixelAddr_eq_cellAddr, pixelAddr_eq_cellAddr, State.cellAddr, State.cellAddr, hframe.pixBase, hframe.stride,
        hframe.height]
    rw [State.putColors, State.putColors, haddr, hcolor, hpalmod, ih]

theorem putFound_arguments {s t : State} (h : t.regs.arguments = s.regs.arguments) (st : Nat) (m : Memory)
    (x : StripeFound) : t.putFound st m x = s.putFound st m x := by
  cases x with
  | skipped => rfl
  | record f tcap shr p0 codes =>
    have hheight : t.regs.height = s.regs.height := (congrArg Regs.height h :)
    have hnpix : t.npix = s.npix := by rw [State.npix, State.npix, hheight]
    have hen : t.regs.transpEn = s.regs.transpEn := (congrArg Regs.transpEn h :)
    rw [State.putFound, State.putFound, State.putStripe, State.putStripe, putColors_arguments h, hnpix, hen]

section
variable {s t : State}

/-- A decode changes no byte of the blob (R61). -/
theorem State.DecodeLaunched.blob_kept (hs : s.DecodeLaunched) (h : Framed (s.Cell .decImage) s t) {a : Nat}
    (hlow : s.regs.blobBase.toNat ≤ a) (hhigh : a < s.blobEnd) : t.mem.read a = s.mem.read a := by
  refine h.bytes a fun ⟨y, hy, x, hx, hcell⟩ => ?_
  have hapart := hs.cell_apart (by rw [State.blobEnd] at hhigh; omega) hy (show x < s.regs.width.toNat from hx)
  omega

theorem State.DecodeLaunched.tableEntry_kept (hs : s.DecodeLaunched) (h : Framed (s.Cell .decImage) s t) {st : Nat}
    (htable : 4 * st + 4 ≤ s.regs.blobSize.toNat) : (t.onStripe st).tableEntry = (s.onStripe st).tableEntry := by
  have hbyte {j : Nat} (hj : j < s.regs.blobSize.toNat) :
      t.mem.read (s.regs.blobBase.toNat + j) = s.mem.read (s.regs.blobBase.toNat + j) :=
    hs.blob_kept h (Nat.le_add_right _ _) (Nat.add_lt_add_left hj _)
  simp only [State.tableEntry, State.onStripe, State.setSel_regs, State.setSel_sel, State.setSel_mem, h.blobBase,
    Nat.add_assoc]
  rw [hbyte (by omega), hbyte (by omega), hbyte (by omega), hbyte (by omega)]

/-- A decode has changed no byte of the blob, so it still finds there what it found (R61). -/
theorem State.Finds.framed (hs : s.DecodeLaunched) (h : Framed (s.Cell .decImage) s t) {st : Nat} {x : StripeFound}
    (hfind : s.Finds st x) : t.Finds st x := by
  have hend : t.blobEnd = s.blobEnd := by rw [State.blobEnd, State.blobEnd, h.blobBase, h.blobSize]
  have htype (hhas : s.HasType st) : t.HasType st ∧ t.typeOf st = s.typeOf st ∧ t.bitsAfterType st = s.bitsAfterType st := by
    obtain ⟨htable, hentry⟩ := hhas
    have hkept := hs.tableEntry_kept h htable
    refine ⟨⟨h.blobSize ▸ htable, hkept ▸ h.blobSize ▸ hentry⟩, ?_, ?_⟩
    · rw [State.typeOf, State.typeOf, hkept, h.blobBase]
      exact hs.blob_kept h (Nat.le_add_right _ _) (Nat.add_lt_add_left hentry _)
    · rw [State.bitsAfterType, State.bitsAfterType, hkept, h.blobBase, hend]
      refine congrArg streamBits (Memory.bytes_congr fun b hlow hhigh => hs.blob_kept h (by omega) (by omega))
  cases x with
  | skipped =>
    obtain ⟨hhas, hnone⟩ := hfind
    obtain ⟨hhas', hbyte, _⟩ := htype hhas
    exact ⟨hhas', hbyte ▸ hnone⟩
  | record f tcap shr p0 codes =>
    obtain ⟨hhas, hfam, hcodes, hcovers, hbits⟩ := hfind
    obtain ⟨hhas', hbyte, hrest⟩ := htype hhas
    have hnpix : t.npix = s.npix := by rw [State.npix, State.npix, h.height]
    exact ⟨hhas', hbyte ▸ hfam, hcodes, hnpix ▸ hcovers, hrest ▸ hbits⟩

end

/-- The state after the first stripes of a decode, as far as the decode shows it. -/
structure DecodedBelow (s : State) (xs : List StripeFound) (t : State) : Prop where
  inv : t.Inv
  regs : t.regs = { s.regs with
    warnCnt := s.regs.warnCnt + BitVec.ofNat Config.dimw (xs.countP StripeFound.skips) }
  transp : t.sel.hasTransp = (s.sel.hasTransp || xs.any StripeFound.capable)
  mem : t.mem = s.putStripes 0 xs s.mem
  cells : ∀ a, ¬ s.Cell .decImage a → t.mem.read a = s.mem.read a
  bp : t.bp = s.bp
  mask : t.mask = s.mask
  bus : t.bus = s.bus
  rdata : t.rdata = s.rdata

section
variable {s t : State} {xs : List StripeFound}

theorem DecodedBelow.framed (h : DecodedBelow s xs t) : Framed (s.Cell .decImage) s t :=
  ⟨by rw [h.regs]; rfl, h.cells⟩

theorem DecodedBelow.regionEnd (h : DecodedBelow s xs t) (rowLen : Nat) : t.regionEnd rowLen = s.regionEnd rowLen := by
  rw [State.regionEnd, State.regionEnd, h.framed.pixBase, h.framed.height, h.framed.stride]

/-- Another stripe is decoded as it would be first: the arguments and the blob are as they were. -/
theorem DecodedBelow.launched (h : DecodedBelow s xs t) (hs : s.DecodeLaunched) : t.DecodeLaunched where
  inv := h.inv
  running := by rw [State.Running, h.regs]; exact hs.running
  height := h.framed.height ▸ hs.height
  fit := by
    rw [State.addressesFit, h.regionEnd, h.framed.width, h.framed.blobBase, h.framed.blobSize]
    exact hs.fit
  disjoint := by
    rw [State.regionsDisjoint, h.regionEnd, h.framed.width, h.framed.pixBase, h.framed.blobBase, h.framed.blobSize]
    exact hs.disjoint

/-- The stripe after the first ones (R170, R176, R218). -/
theorem DecodedBelow.step (hs : s.DecodeLaunched) (h : DecodedBelow s xs t) (hst : xs.length < s.stripes) {x : StripeFound}
    (hfind : s.Finds xs.length x) :
    ∃ u, (decodeRecord xs.length).run t = .ok () u ∧ DecodedBelow s (xs ++ [x]) u := by
  obtain ⟨u, hrun, hu⟩ := decodeRecord_found (h.launched hs) (h.framed.stripes ▸ hst) (hfind.framed hs h.framed)
  have hinv : u.Inv := ((Rel.decodeRecord Twin.carried xs.length).inv (fun _ => rfl) h.inv).1 () u hrun
  have hframe : Framed (s.Cell .decImage) s u := by
    have hkeeps := decodeRecord_framed hs.height hst h.framed
    rwa [hrun] at hkeeps
  refine ⟨u, hrun, hinv, ?_, ?_, ?_, hframe.bytes, hu.bp.trans h.bp, hu.mask.trans h.mask, hu.bus.trans h.bus,
    hu.rdata.trans h.rdata⟩
  · have hcount : [x].countP StripeFound.skips = x.skips.toNat := by
      cases x with
      | skipped => rfl
      | record => rfl
    rw [hu.regs, h.regs, List.countP_append, hcount, BitVec.ofNat_add, ← BitVec.add_assoc]
  · rw [hu.transp, h.transp, List.any_append, List.any_cons, List.any_nil, Bool.or_false, Bool.or_assoc]
  · rw [hu.mem, h.mem, putFound_arguments h.framed.arguments, putStripes_append, Nat.zero_add]
    rfl

end

/-- `DEC_IMAGE` of a blob whose every stripe has a record or an unrecognised type byte (R170). -/
theorem decodeImage_run {s : State} (hs : s.DecodeLaunched) (hwidth : s.regs.width.toNat % 8 = 0) {xs : List StripeFound}
    (hlen : xs.length = s.stripes) (hfinds : ∀ st x, xs[st]? = some x → s.Finds st x) :
    ∃ t, decodeImage.run s = .ok 0 t ∧ DecodedBelow s xs t := by
  have hstart : DecodedBelow s (xs.take 0) s :=
    ⟨hs.inv, by rw [List.take_zero]; exact congrArg (fun w => { s.regs with warnCnt := w }) (BitVec.add_zero _).symm,
      (Bool.or_false _).symm, rfl, fun _ _ => rfl, rfl, rfl, rfl, rfl⟩
  have hloop : Triple (fun _ _ => False) (DecodedBelow s (xs.take 0)) (eachFrom decodeRecord s.stripes 0) fun _ =>
      DecodedBelow s (xs.take (0 + s.stripes)) := by
    refine Triple.each (J := fun i => DecodedBelow s (xs.take i)) s.stripes 0 fun i _ hi t ht => ?_
    have hi' : i < xs.length := by omega
    have htake : (xs.take i).length = i := List.length_take_of_le hi'.le
    have hfind := hfinds i _ (List.getElem?_eq_getElem hi')
    obtain ⟨u, hrun, hu⟩ := ht.step hs (by omega) (by rwa [htake])
    rw [htake] at hrun
    rw [hrun]
    rwa [List.take_concat_get'] at hu
  rw [Nat.zero_add, ← hlen, List.take_length, hlen] at hloop
  obtain ⟨_, t, hrun, ht⟩ := hloop.run_ok hstart
  refine ⟨t, ?_, ht⟩
  rw [decodeImage, launch_run hwidth hs.height hs.fit hs.disjoint, EStateM.run_bind, hrun]
  rfl

end Sys2Proof.Machine

namespace Sys2Proof.Machine

/-! ## The pixels that a decode of a picture leaves -/

/-- A visiting order visits every place of a stripe (R125, R128). -/
theorem pixelPos_surj (f : Family) {height row col : Nat} (hrow : row < height) (hcol : col < 8) :
    ∃ k < 8 * height, pixelPos f height k = (row, col) := by
  cases f
  case c =>
    refine ⟨col * height + row, ?_, Prod.ext (Nat.mul_add_mod_of_lt hrow) ?_⟩
    · have hcols : (col + 1) * height ≤ 8 * height := Nat.mul_le_mul_right _ hcol
      rw [Nat.succ_mul] at hcols
      omega
    · show (col * height + row) / height = col
      rw [Nat.add_comm, Nat.add_mul_div_right _ _ (by omega), Nat.div_eq_of_lt hrow, Nat.zero_add]
  all_goals exact ⟨8 * row + col, by omega, Prod.ext (show (8 * row + col) / 8 = row by omega)
    (show (8 * row + col) % 8 = col by omega)⟩

section
variable {s : State}

/-- Cells in different columns are apart where the stride is at least the row (R51). -/
theorem cellAddr_column {y x y' x' : Nat} (hx : x < s.regs.stride.toNat) (hx' : x' < s.regs.stride.toNat)
    (h : s.cellAddr y x = s.cellAddr y' x') : x = x' := by
  have hsum : y * s.regs.stride.toNat + x = y' * s.regs.stride.toNat + x' := by
    rw [State.cellAddr, State.cellAddr] at h
    omega
  have hrest := congrArg (· % s.regs.stride.toNat) hsum
  simp only [Nat.mul_add_mod_of_lt hx, Nat.mul_add_mod_of_lt hx'] at hrest
  exact hrest

/-- A stripe's pixels are in its own columns. -/
theorem putFound_read_other (hstride : s.regs.width.toNat ≤ s.regs.stride.toNat) {st y col : Nat} (hst : st < s.stripes)
    (hcol : col < s.regs.width.toNat) (hne : col / 8 ≠ st) (m : Memory) (x : StripeFound) :
    (s.putFound st m x).read (s.cellAddr y col) = m.read (s.cellAddr y col) := by
  cases x with
  | skipped => rfl
  | record f tcap shr p0 codes =>
    refine State.putColors_read_other m fun j _ hj heq => hne ?_
    have hplace := (pixelPos_bounds f (show j < 8 * s.regs.height.toNat by
      rw [List.length_take, State.npix] at hj
      omega)).2
    rw [pixelAddr_eq_cellAddr] at heq
    have hsame := cellAddr_column (hcol.trans_le hstride) ((stripe_column_lt hst hplace).trans_le hstride) heq
    omega

theorem putStripes_read_other (hstride : s.regs.width.toNat ≤ s.regs.stride.toNat) {st y col : Nat} {xs : List StripeFound}
    (hend : st + xs.length ≤ s.stripes) (hcol : col < s.regs.width.toNat) (hout : col / 8 < st ∨ st + xs.length ≤ col / 8)
    (m : Memory) : (s.putStripes st xs m).read (s.cellAddr y col) = m.read (s.cellAddr y col) := by
  induction xs generalizing st m with
  | nil => rfl
  | cons x xs ih =>
    rw [List.length_cons] at hend hout
    rw [State.putStripes, ih (by omega) (by omega), putFound_read_other hstride (by omega) hcol (by omega)]

theorem putColors_rising {m : Memory} (hm : Memory.risingFrom 0 m = true) (f : Family) (tr : Bool) (st k : Nat)
    (cs : List Byte) : Memory.risingFrom 0 (s.putColors f tr st k cs m) = true := by
  induction cs generalizing k m with
  | nil => exact hm
  | cons c cs ih =>
    rw [State.putColors]
    split
    · exact ih hm _
    · exact ih (Memory.risingFrom_write hm (Nat.zero_le _)) _

theorem putStripes_rising {m : Memory} (hm : Memory.risingFrom 0 m = true) (st : Nat) (xs : List StripeFound) :
    Memory.risingFrom 0 (s.putStripes st xs m) = true := by
  induction xs generalizing st m with
  | nil => exact hm
  | cons x xs ih =>
    cases x with
    | skipped => exact ih hm _
    | record f tcap shr p0 codes => exact ih (putColors_rising hm _ _ _ _ _) _

/-- The record of a picture's stripe spells the stripe's pixels (R155). -/
theorem putFound_pictureFound (hheight : s.regs.height ≠ 0) (en : Bool) (p : Picture) (st : Nat) (m : Memory) :
    s.putFound st m (pictureFound en p s.regs.height.toNat st) =
      s.putColors (bestFamily p s.regs.height.toNat st) (en && s.regs.transpEn) st 0
        (stripeOf p s.regs.height.toNat (bestFamily p s.regs.height.toNat st) st) m := by
  have hlen := stripeOf_length p s.regs.height.toNat (bestFamily p s.regs.height.toNat st) st
  obtain ⟨p0, ps, hpix⟩ := List.exists_cons_of_ne_nil
    (stripeOf_ne_nil p hheight (bestFamily p s.regs.height.toNat st) st)
  rw [hpix] at hlen
  rw [pictureFound, State.putFound, State.putStripe, paint_codesOf, hpix, List.headD_cons, List.tail_cons,
    List.take_of_length_le (show _ ≤ s.npix from hlen.le)]

/-- The byte that a decode of a picture with transparency-capable stripes, or opaque ones, leaves in a cell that held `old`
(R175, R177). -/
def State.decodedPixel (s : State) (en : Bool) (p : Picture) (y x : Nat) (old : Byte) : Byte :=
  if en = true ∧ s.regs.transpEn = true ∧ p y x = s.regs.transpColor then old else p y x + s.regs.palmod

/-- Each pixel of a picture's stripe is put in its cell. -/
theorem putFound_pictureFound_read (hheight : s.regs.height ≠ 0) (hwidth : s.regs.width.toNat % 8 = 0)
    (hstride : s.regs.width.toNat ≤ s.regs.stride.toNat) {m : Memory} (hm : Memory.risingFrom 0 m = true) (en : Bool)
    (p : Picture) {y x : Nat} (hy : y < s.regs.height.toNat) (hx : x < s.regs.width.toNat) :
    (s.putFound (x / 8) m (pictureFound en p s.regs.height.toNat (x / 8))).read (s.cellAddr y x) =
      s.decodedPixel en p y x (m.read (s.cellAddr y x)) := by
  obtain ⟨k, hk, hpos⟩ := pixelPos_surj (bestFamily p s.regs.height.toNat (x / 8)) hy (Nat.mod_lt x (by decide : 0 < 8))
  have hcol : 8 * (x / 8) + x % 8 = x := Nat.div_add_mod x 8
  have hcell : (s.onStripe (x / 8)).pixelAddr (bestFamily p s.regs.height.toNat (x / 8)) k = s.cellAddr y x := by
    rw [pixelAddr_eq_cellAddr, hpos, hcol]
  have hpixel : (stripeOf p s.regs.height.toNat (bestFamily p s.regs.height.toNat (x / 8)) (x / 8))[k]? = some (p y x) := by
    rw [stripeOf, List.getElem?_map, List.getElem?_range hk, Option.map_some, hpos, hcol]
  have hread := State.putColors_read (s := s) (f := bestFamily p s.regs.height.toNat (x / 8)) (tr := en && s.regs.transpEn)
    (st := x / 8) (k := 0) hm (by omega) (by rw [stripeOf_length, State.npix, Nat.zero_add]) hpixel
  rw [Nat.zero_add, hcell] at hread
  rw [putFound_pictureFound hheight, hread, State.decodedPixel]
  simp only [Bool.and_eq_true, and_assoc]

/-- Each pixel of a picture is put in its cell, by its own stripe. -/
theorem putStripes_picture_read (hheight : s.regs.height ≠ 0) (hwidth : s.regs.width.toNat % 8 = 0)
    (hstride : s.regs.width.toNat ≤ s.regs.stride.toNat) {m : Memory} (hm : Memory.risingFrom 0 m = true) (en : Bool)
    (p : Picture) {y x : Nat} (hy : y < s.regs.height.toNat) (hx : x < s.regs.width.toNat) :
    (s.putStripes 0 ((List.range s.stripes).map (pictureFound en p s.regs.height.toNat)) m).read (s.cellAddr y x) =
      s.decodedPixel en p y x (m.read (s.cellAddr y x)) := by
  have hst : x / 8 < s.stripes := by
    rw [State.stripes]
    omega
  obtain ⟨rest, hrange⟩ := range_split hst
  have hcount := congrArg List.length hrange
  simp only [List.length_append, List.length_range, List.length_singleton] at hcount
  rw [hrange, List.map_append, List.map_append, putStripes_append, putStripes_append, List.map_singleton,
    putStripes_read_other hstride (by simp; omega) hx (by simp)]
  simp only [List.length_map, List.length_range, Nat.zero_add]
  show (s.putFound (x / 8) _ (pictureFound en p s.regs.height.toNat (x / 8))).read _ = _
  rw [putFound_pictureFound_read hheight hwidth hstride (putStripes_rising hm 0 _) en p hy hx,
    putStripes_read_other hstride (by simp; omega) hx (by simp)]

end

/-! ## `DEC_IMAGE` of a picture's blob -/

theorem pictureFound_any_capable (en : Bool) (p : Picture) (h n : Nat) :
    ((List.range n).map (pictureFound en p h)).any StripeFound.capable = (en && decide (n ≠ 0)) := by
  induction n with
  | zero => rw [decide_eq_false (not_not.mpr rfl), Bool.and_false]; rfl
  | succ n ih =>
    rw [List.range_succ, List.map_append, List.any_append, ih, decide_eq_true n.succ_ne_zero, Bool.and_true]
    show (en && decide (n ≠ 0) || (en || false)) = en
    cases en
    · rfl
    · exact Bool.or_true _

theorem pictureFound_countP_skips (en : Bool) (p : Picture) (h n : Nat) :
    ((List.range n).map (pictureFound en p h)).countP StripeFound.skips = 0 := by
  simp [pictureFound, StripeFound.skips, List.countP_eq_zero]

/-- `DEC_IMAGE` of a picture's blob completes `OK` and puts the picture's pixels (R170, R175 to R177). -/
theorem decodeImage_of_imageBlob {s : State} {en : Bool} {p : Picture} (hinv : s.Inv) (hstart : s.Startable)
    (hlaunch : s.Launchable .decImage)
    (hlen : (imageBlob en p s.regs.height.toNat s.stripes).length ≤ s.regs.blobSize.toNat)
    (hblob : s.mem.bytes s.regs.blobBase.toNat (imageBlob en p s.regs.height.toNat s.stripes).length =
      imageBlob en p s.regs.height.toNat s.stripes) (hstride : s.regs.width.toNat ≤ s.regs.stride.toNat) :
    ∃ t, exec .decImage s = .next t ∧ t.regs = s.regs.finished .ok (en && decide (s.regs.width ≠ 0)) 0 0 0 ∧
      ∀ y < s.regs.height.toNat, ∀ x < s.regs.width.toNat, t.mem.read (s.cellAddr y x) =
        s.decodedPixel en p y x (s.mem.read (s.cellAddr y x)) := by
  obtain ⟨hbusy, hwidth, hheight⟩ := hstart
  obtain ⟨hfit, hdisjoint⟩ := hlaunch
  have hs : (startCommand s).DecodeLaunched := ⟨hinv.of_parts rfl rfl rfl rfl rfl, rfl, hheight, hfit, hdisjoint⟩
  have hrising : Memory.risingFrom 0 s.mem = true := (Bool.and_eq_true_iff.mp hinv.mem).1
  obtain ⟨t, hrun, ht⟩ := decodeImage_run hs hwidth (xs := (List.range s.stripes).map (pictureFound en p s.regs.height.toNat))
    (by rw [List.length_map, List.length_range]; rfl) fun st x hx => by
      obtain ⟨hlt, rfl⟩ := List.getElem?_eq_some_iff.mp hx
      rw [List.length_map, List.length_range] at hlt
      rw [List.getElem_map, List.getElem_range]
      exact finds_of_imageBlob (s := startCommand s) hheight hlen hblob hlt
  have hstripes : decide (s.stripes ≠ 0) = decide (s.regs.width ≠ 0) := by
    refine decide_eq_decide.mpr (not_congr ⟨fun h0 => BitVec.eq_of_toNat_eq ?_, fun h0 => by rw [State.stripes, h0]; rfl⟩)
    rw [State.stripes] at h0
    show s.regs.width.toNat = 0
    omega
  refine ⟨_, runCommand_ok hbusy hrun, ?_, fun y hy x hx => ?_⟩
  · rw [completeOk_eq, State.setRegs_regs, ht.regs, ht.transp, pictureFound_any_capable, pictureFound_countP_skips, hstripes]
    rfl
  · show t.mem.read (s.cellAddr y x) = _
    rw [ht.mem]
    exact putStripes_picture_read (s := startCommand s) hheight hwidth hstride hrising en p hy hx

/-- Settles O57: a decode of what an encode wrote. -/
theorem imageRoundTrip : Obligations.ImageRoundTrip := by
  intro s t r hinv hbusy hexec hok hinvr hstart hlaunch hwidth hheight hen hcolor hpalmod hsize hbytes hstride
  have hencoded : s.Startable ∧ s.Launchable .encImage := by
    refine (exec_encImage_launched hbusy hexec).resolve_left fun hpre => ?_
    rw [hok] at hpre
    cases hpre
  obtain ⟨hfits, hfull⟩ := encodeImageWritesBlob s _ hinv hencoded.1 hencoded.2 rfl
  have hlen : (imageBlob s.regs.transpEn s.picture s.regs.height.toNat s.stripes).length ≤ s.regs.blobSize.toNat := by
    by_contra hlong
    obtain ⟨u, hu, hregs, _⟩ := hfull (not_le.mp hlong)
    obtain rfl := Host.Outcome.next.inj (hu.symm.trans hexec)
    rw [hregs] at hok
    cases hok
  obtain ⟨u, hu, hregs, hwritten, _⟩ := hfits hlen
  obtain rfl := Host.Outcome.next.inj (hu.symm.trans hexec)
  have hout : u.regs.outLen.toNat = (imageBlob s.regs.transpEn s.picture s.regs.height.toNat s.stripes).length := by
    rw [hregs]
    exact Nat.mod_eq_of_lt (hlen.trans_lt s.regs.blobSize.isLt)
  have hstripes : r.stripes = s.stripes := by rw [State.stripes, State.stripes, hwidth]
  rw [hout, hwritten] at hbytes
  obtain ⟨r', hr', hregs', hpixels⟩ := decodeImage_of_imageBlob (s := r) (en := s.regs.transpEn) (p := s.picture) hinvr hstart
    hlaunch (by rw [hsize, hout, hheight, hstripes]) (by rw [hheight, hstripes]; exact hbytes) hstride
  refine ⟨r', hr', by rw [hregs']; rfl, by rw [hregs']; rfl, by rw [hregs', hwidth]; rfl, fun y hy x hx => ?_⟩
  have hsum : s.picture y x + 0 = s.picture y x := BitVec.add_zero _
  rw [hpixels y (hheight ▸ hy) x (hwidth ▸ hx), State.decodedPixel, hen, hcolor, hpalmod, hsum]
  simp only [and_self_left]

end Sys2Proof.Machine

namespace Sys2Proof.Machine

/-! ## Stripes that end a decode -/

section
variable {s : State} {st : Nat}

/-- An offset entry that is not wholly in the blob (R171). -/
theorem fetchType_noEntry (htable : s.regs.blobSize.toNat < 4 * s.sel.stripe + 4) :
    fetchType.run s = .error (.raise .trunc) s := by
  rw [fetchType]
  simp only [EStateM.run_bind, EStateM.run_get]
  rw [if_pos htable]
  rfl

/-- An offset entry that does not point into the blob (R171). -/
theorem fetchType_outside (hrun : s.Running) (hblob : s.blobEnd ≤ Config.addrSpace)
    (htable : 4 * s.sel.stripe + 4 ≤ s.regs.blobSize.toNat) (htype : s.regs.blobSize.toNat ≤ s.tableEntry) :
    fetchType.run s = .error (.raise .trunc) (s.withEntry s.tableEntry) := by
  rw [State.blobEnd] at hblob
  have hentry : (readLE 4 (s.regs.blobBase.toNat + 4 * s.sel.stripe)).run s = .ok s.tableEntry s :=
    (littleEndianReads s _ hrun).2 (by omega)
  rw [fetchType]
  simp only [EStateM.run_bind, EStateM.run_get]
  rw [if_neg (not_lt.mpr htable), EStateM.run_bind, hentry]
  show (if s.regs.blobSize.toNat ≤ s.tableEntry then throw (.raise .trunc)
    else readByte (s.regs.blobBase.toNat + s.tableEntry) : Act Byte).run (s.withEntry s.tableEntry) = _
  rw [if_pos htype]
  rfl

/-- A stripe whose type byte cannot be fetched ends the decode as the fetch does (R171). -/
theorem decodeRecord_unfetched {e : Stop} {t : State} (hfetch : fetchType.run (s.onStripe st) = .error e t) :
    (decodeRecord st).run s = .error e t := by
  show (do let b ← fetchType
           match decodeType b with
           | none => modify warn
           | some (f, tcap, shr) => dispatchType f tcap shr : Act Unit).run (s.onStripe st) = _
  rw [EStateM.run_bind, hfetch]

/-- A stripe with a recognised type byte runs its family's decoder on the bits after that byte (R170, R173, R175). -/
theorem decodeRecord_dispatched (hrun : s.Running) (hblob : s.blobEnd ≤ Config.addrSpace) (htype : s.HasType st)
    {f : Family} {tcap : Bool} {shr : ShiftWidth} (hbyte : s.typeOf st = typeByte f tcap shr) :
    (decodeRecord st).run s = (decodeStripe st f (tcap && s.regs.transpEn)).run
      (((s.onStripe st).withEntry (s.onStripe st).tableEntry).dispatched tcap shr) := by
  rw [decodeRecord_run hrun hblob htype, decodeType_eq_some.mpr hbyte]
  exact dispatchType_run f tcap shr _

/-- How the stripe that ends a decode leaves the state that the decode shows: the pixels before the failing read, the running
`HAS_TRANSP` and the stripe's index in `S` (R176, R178, R212). -/
structure StoppedAfter (s : State) (st : Nat) (x : StripeStop) (t : State) : Prop where
  regs : t.regs = s.regs
  stripe : t.sel.stripe = st
  transp : t.sel.hasTransp = (s.sel.hasTransp || x.capable)
  mem : t.mem = s.putStopped st s.mem x
  bp : t.bp = s.bp
  mask : t.mask = s.mask
  bus : t.bus = s.bus
  rdata : t.rdata = s.rdata

/-- A dispatched stripe whose codes leave a pixel ends as the code after them does (R178, R212). -/
theorem decodeRecord_cut (hs : s.DecodeLaunched) (hst : st < s.stripes) (htype : s.HasType st) {f : Family} {tcap : Bool}
    {shr : ShiftWidth} (hbyte : s.typeOf st = typeByte f tcap shr) {p0 : Byte} {codes : List Instr} {more : List Bool}
    (hcodes : FamilyCodes f shr codes) (hleft : pixelCount codes < s.npix - 1)
    (hbits : s.bitsAfterType st = streamOf shr p0 codes ++ more) {x : StripeStop}
    (hx : x = .cutCode f tcap shr p0 codes ∨ x = .zeroRun f tcap shr p0 codes)
    (hstop : ∀ t : State, t.Readable → t.dp.shr = shr → t.pending = more →
      ∃ u, (decodeCode f).run t = .error (.raise x.err) (t.setBu u)) :
    ∃ t, (decodeRecord st).run s = .error (.raise x.err) t ∧ StoppedAfter s st x t := by
  have hsize : s.regs.blobSize.toNat ≠ 0 := by
    obtain ⟨htable, _⟩ := htype
    omega
  obtain ⟨u, hdecode⟩ := decodeStripe_stopped (tcap && s.regs.transpEn)
    (hs.stripeReady hst hsize tcap hcodes (s.onStripe st).tableEntry) hleft hbits hstop
  have hmem := State.putColors_regs (s := s)
    (t := ((s.onStripe st).withEntry (s.onStripe st).tableEntry).dispatched tcap shr) rfl f (tcap && s.regs.transpEn) st 0
    ((p0 :: paint p0 .down codes).take s.npix) s.mem
  rw [decodeRecord_dispatched hs.running (hs.blobEnd hst) htype hbyte]
  refine ⟨_, hdecode, rfl, rfl, ?_, ?_, rfl, rfl, rfl, rfl⟩ <;> rcases hx with rfl | rfl
  · rfl
  · rfl
  · exact hmem
  · exact hmem

/-- A stripe that ends the decode raises its error, with the pixels before the failing read put (R171, R178, R214, R217). -/
theorem decodeRecord_stopped (hs : s.DecodeLaunched) (hst : st < s.stripes) {x : StripeStop} (hstop : s.StopsAt st x) :
    ∃ t, (decodeRecord st).run s = .error (.raise x.err) t ∧ StoppedAfter s st x t := by
  cases x with
  | noType =>
    have htransp : s.sel.hasTransp = (s.sel.hasTransp || false) := (Bool.or_false _).symm
    by_cases htable : 4 * st + 4 ≤ s.regs.blobSize.toNat
    · have hentry : s.regs.blobSize.toNat ≤ (s.onStripe st).tableEntry := not_lt.mp fun hlt => hstop ⟨htable, hlt⟩
      exact ⟨_, decodeRecord_unfetched (fetchType_outside hs.running (hs.blobEnd hst) htable hentry),
        rfl, rfl, htransp, rfl, rfl, rfl, rfl, rfl⟩
    · exact ⟨_, decodeRecord_unfetched (fetchType_noEntry (not_le.mp htable)), rfl, rfl, htransp, rfl, rfl, rfl, rfl, rfl⟩
  | noFirst f tcap shr =>
    obtain ⟨htype, hbyte, hshort⟩ := hstop
    rw [decodeRecord_dispatched hs.running (hs.blobEnd hst) htype hbyte]
    exact ⟨_, decodeStripe_noFirst
      (s := ((s.onStripe st).withEntry (s.onStripe st).tableEntry).dispatched tcap shr) hshort f _ st,
      rfl, rfl, rfl, rfl, rfl, rfl, rfl, rfl⟩
  | cutCode f tcap shr p0 codes =>
    obtain ⟨htype, hbyte, hcodes, hleft, more, hbits, hcut⟩ := hstop
    exact decodeRecord_cut hs hst htype hbyte hcodes hleft hbits (.inl rfl) fun t ht hshr hmore =>
      decodeCode_cut ht (by rw [hshr, hmore, hcut])
  | zeroRun f tcap shr p0 codes =>
    obtain ⟨htype, hbyte, hcodes, hleft, hacode, rest, hbits⟩ := hstop
    rw [List.append_assoc] at hbits
    exact decodeRecord_cut hs hst htype hbyte hcodes hleft hbits.symm (.inr rfl) fun t ht hshr hmore =>
      decodeCode_zeroRun ht hacode (by rw [hshr, hmore])

end

end Sys2Proof.Machine

namespace Sys2Proof.Machine

/-! ## The stripe that ends a decode, after others -/

/-- Where the last pixels are put does not depend on the warnings counted before. -/
theorem putStopped_arguments {s t : State} (h : t.regs.arguments = s.regs.arguments) (st : Nat) (m : Memory)
    (x : StripeStop) : t.putStopped st m x = s.putStopped st m x := by
  cases x with
  | noType => rfl
  | noFirst f tcap shr => rfl
  | cutCode f tcap shr p0 codes => exact putFound_arguments h st m (.record f tcap shr p0 codes)
  | zeroRun f tcap shr p0 codes => exact putFound_arguments h st m (.record f tcap shr p0 codes)

section
variable {s t : State} {st : Nat}

/-- A decode has changed no byte of the blob, so a stripe's type byte and the bits after it are where they were (R61). -/
theorem State.HasType.framed (hs : s.DecodeLaunched) (h : Framed (s.Cell .decImage) s t) (htype : s.HasType st) :
    t.HasType st ∧ t.typeOf st = s.typeOf st ∧ t.bitsAfterType st = s.bitsAfterType st := by
  obtain ⟨htable, hentry⟩ := htype
  have hend : t.blobEnd = s.blobEnd := by rw [State.blobEnd, State.blobEnd, h.blobBase, h.blobSize]
  have hkept := hs.tableEntry_kept h htable
  refine ⟨⟨h.blobSize ▸ htable, hkept ▸ h.blobSize ▸ hentry⟩, ?_, ?_⟩
  · rw [State.typeOf, State.typeOf, hkept, h.blobBase]
    exact hs.blob_kept h (Nat.le_add_right _ _) (Nat.add_lt_add_left hentry _)
  · rw [State.bitsAfterType, State.bitsAfterType, hkept, h.blobBase, hend]
    exact congrArg streamBits (Memory.bytes_congr fun b hlow hhigh => hs.blob_kept h (by omega) (by omega))

/-- The blob ends the decode at a stripe as it would have ended it there at first. -/
theorem State.StopsAt.framed (hs : s.DecodeLaunched) (h : Framed (s.Cell .decImage) s t) {x : StripeStop}
    (hstop : s.StopsAt st x) : t.StopsAt st x := by
  have hnpix : t.npix = s.npix := by rw [State.npix, State.npix, h.height]
  cases x with
  | noType =>
    rintro ⟨htable, hentry⟩
    rw [h.blobSize] at htable hentry
    exact hstop ⟨htable, hs.tableEntry_kept h htable ▸ hentry⟩
  | noFirst f tcap shr =>
    obtain ⟨htype, hbyte, hshort⟩ := hstop
    obtain ⟨htype', hkept, hrest⟩ := State.HasType.framed hs h htype
    exact ⟨htype', hkept ▸ hbyte, hrest ▸ hshort⟩
  | cutCode f tcap shr p0 codes =>
    obtain ⟨htype, hbyte, hcodes, hleft, hcut⟩ := hstop
    obtain ⟨htype', hkept, hrest⟩ := State.HasType.framed hs h htype
    exact ⟨htype', hkept ▸ hbyte, hcodes, hnpix ▸ hleft, hrest ▸ hcut⟩
  | zeroRun f tcap shr p0 codes =>
    obtain ⟨htype, hbyte, hcodes, hleft, hacode, hbits⟩ := hstop
    obtain ⟨htype', hkept, hrest⟩ := State.HasType.framed hs h htype
    exact ⟨htype', hkept ▸ hbyte, hcodes, hnpix ▸ hleft, hacode, hrest ▸ hbits⟩

end

theorem eachFrom_add (body : Nat → Act Unit) (m n i : Nat) :
    eachFrom body (m + n) i = (do eachFrom body m i; eachFrom body n (i + m)) := by
  induction m generalizing i with
  | zero => rw [Nat.zero_add, eachFrom, pure_bind, Nat.add_zero]
  | succ m ih => rw [Nat.add_right_comm, eachFrom, eachFrom, ih, bind_assoc, Nat.add_right_comm, Nat.add_assoc]

theorem DecodedBelow.refl {s : State} (hs : s.DecodeLaunched) : DecodedBelow s [] s where
  inv := hs.inv
  regs := congrArg (fun w => { s.regs with warnCnt := w }) (BitVec.add_zero _).symm
  transp := (Bool.or_false _).symm
  mem := rfl
  cells _ _ := rfl
  bp := rfl
  mask := rfl
  bus := rfl
  rdata := rfl

/-- The first stripes of a decode, each with a record or an unrecognised type byte (R170, R174). -/
theorem decodeRecords_run {s : State} (hs : s.DecodeLaunched) (xs : List StripeFound) (hlen : xs.length ≤ s.stripes)
    (hfinds : ∀ st x, xs[st]? = some x → s.Finds st x) :
    ∃ t, (eachFrom decodeRecord xs.length 0).run s = .ok () t ∧ DecodedBelow s xs t := by
  induction xs using List.reverseRecOn with
  | nil => exact ⟨s, rfl, DecodedBelow.refl hs⟩
  | append_singleton xs x ih =>
    rw [List.length_append, List.length_singleton] at hlen ⊢
    obtain ⟨t, hrun, ht⟩ := ih (by omega) fun st y hy => hfinds st y (by
      rwa [List.getElem?_append_left (List.getElem?_eq_some_iff.mp hy).1])
    obtain ⟨u, hstep, hu⟩ := ht.step hs hlen (hfinds xs.length x List.getElem?_concat_length)
    refine ⟨u, ?_, hu⟩
    rw [eachFrom_add, EStateM.run_bind, hrun, Nat.zero_add]
    show (eachFrom decodeRecord 1 xs.length).run t = _
    rw [eachFrom_succ, EStateM.run_bind, hstep]
    rfl

/-- `DEC_IMAGE` of a blob that ends the decode at a stripe after such ones (R178, R222). -/
theorem decodeImage_stopped {s : State} (hs : s.DecodeLaunched) (hwidth : s.regs.width.toNat % 8 = 0) {xs : List StripeFound}
    (hlen : xs.length < s.stripes) (hfinds : ∀ st x, xs[st]? = some x → s.Finds st x) {x : StripeStop}
    (hstop : s.StopsAt xs.length x) :
    ∃ t u, decodeImage.run s = .error (.raise x.err) u ∧ DecodedBelow s xs t ∧ StoppedAfter t xs.length x u := by
  obtain ⟨t, hrun, ht⟩ := decodeRecords_run hs xs hlen.le hfinds
  obtain ⟨u, hlast, hu⟩ := decodeRecord_stopped (ht.launched hs) (ht.framed.stripes ▸ hlen) (hstop.framed hs ht.framed)
  obtain ⟨n, hn⟩ := Nat.exists_eq_add_of_le (Nat.succ_le_of_lt hlen)
  refine ⟨t, u, ?_, ht, hu⟩
  rw [decodeImage, launch_run hwidth hs.height hs.fit hs.disjoint, hn, Nat.succ_add_eq_add_succ, eachFrom_add, bind_assoc,
    EStateM.run_bind, hrun, Nat.zero_add]
  show ((do eachFrom decodeRecord (n + 1) xs.length; return 0 : Act Nat)).run t = _
  rw [EStateM.run_bind, eachFrom_succ, EStateM.run_bind, hlast]

end Sys2Proof.Machine

namespace Sys2Proof.Machine

/-! ## `DEC_IMAGE` as an instruction -/

section
variable {s : State}

theorem startCommand_decodeLaunched (hinv : s.Inv) (hheight : s.regs.height ≠ 0) (hlaunch : s.Launchable .decImage) :
    (startCommand s).DecodeLaunched where
  inv := hinv.of_parts rfl rfl rfl rfl rfl
  running := rfl
  height := hheight
  fit := hlaunch.1
  disjoint := hlaunch.2

/-- The start of a command leaves the blob as it is, and what a decode finds in it. -/
theorem State.Finds.startCommand {st : Nat} {x : StripeFound} (h : s.Finds st x) : (startCommand s).Finds st x := by
  cases x with
  | skipped => exact h
  | record f tcap shr p0 codes => exact h

theorem State.StopsAt.startCommand {st : Nat} {x : StripeStop} (h : s.StopsAt st x) : (startCommand s).StopsAt st x := by
  cases x with
  | noType => exact h
  | noFirst f tcap shr => exact h
  | cutCode f tcap shr p0 codes => exact h
  | zeroRun f tcap shr p0 codes => exact h

/-- The errors that end a decode at a stripe name the stripe (R43, R211). -/
theorem StripeStop.err_namesStripe (x : StripeStop) : x.err.namesStripe = true := by cases x <;> rfl

/-- The start of a command changes nothing that says where pixels are put. -/
theorem putStripes_startCommand (s : State) (st : Nat) (xs : List StripeFound) (m : Memory) :
    (startCommand s).putStripes st xs m = s.putStripes st xs m := by
  induction xs generalizing st m with
  | nil => rfl
  | cons x xs ih =>
    have hfirst : (startCommand s).putFound st m x = s.putFound st m x :=
      putFound_arguments (s := s) (t := startCommand s) rfl st m x
    rw [State.putStripes, State.putStripes, hfirst, ih]

/-- The registers with which a decode ends show the warnings and the capable stripes so far (R176, R212, R216, R218). -/
theorem DecodedBelow.completed {t : State} {xs : List StripeFound} (h : DecodedBelow (startCommand s) xs t) (e : Err)
    (hasTransp : Bool) (info : Dim) :
    { t.regs with status := Status.completed e hasTransp t.regs.warnCnt, errInfo := info, outLen := 0 } =
      s.regs.finished e hasTransp (BitVec.ofNat Config.dimw (xs.countP StripeFound.skips)) info 0 := by
  have hregs : t.regs = { (startCommand s).regs with
      warnCnt := BitVec.ofNat Config.dimw (xs.countP StripeFound.skips) } :=
    h.regs.trans (congrArg (fun w => { (startCommand s).regs with warnCnt := w }) (BitVec.zero_add _))
  rw [hregs]
  rfl

/-- A decode of which every stripe has a record or an unrecognised type byte completes `OK` (R170, R174, R218). -/
theorem exec_decImage_found (hinv : s.Inv) (hstart : s.Startable) (hlaunch : s.Launchable .decImage) {xs : List StripeFound}
    (hlen : xs.length = s.stripes) (hfinds : ∀ st x, xs[st]? = some x → s.Finds st x) :
    ∃ t, exec .decImage s = .next t ∧
      t.regs = s.regs.finished .ok (xs.any StripeFound.capable)
        (BitVec.ofNat Config.dimw (xs.countP StripeFound.skips)) 0 0 ∧
      t.mem = s.putStripes 0 xs s.mem ∧ t.bp = s.bp ∧ t.mask = s.mask ∧ t.bus = s.bus ∧ t.rdata = s.rdata := by
  obtain ⟨hbusy, hwidth, hheight⟩ := hstart
  obtain ⟨t, hrun, ht⟩ := decodeImage_run (startCommand_decodeLaunched hinv hheight hlaunch) hwidth hlen
    fun st x hx => (hfinds st x hx).startCommand
  have htransp : t.sel.hasTransp = xs.any StripeFound.capable := ht.transp
  refine ⟨_, runCommand_ok hbusy hrun, ?_, ht.mem.trans (putStripes_startCommand s 0 xs s.mem), ht.bp, ht.mask, ht.bus,
    ht.rdata⟩
  rw [completeOk_eq, State.setRegs_regs, htransp]
  exact ht.completed .ok _ 0

/-- A decode that a stripe ends completes with that stripe's error and index (R178, R212, R222). -/
theorem exec_decImage_stopped (hinv : s.Inv) (hstart : s.Startable) (hlaunch : s.Launchable .decImage)
    {xs : List StripeFound} (hlen : xs.length < s.stripes) (hfinds : ∀ st x, xs[st]? = some x → s.Finds st x)
    {x : StripeStop} (hstop : s.StopsAt xs.length x) :
    ∃ t, exec .decImage s = .next t ∧
      t.regs = s.regs.finished x.err (xs.any StripeFound.capable || x.capable)
        (BitVec.ofNat Config.dimw (xs.countP StripeFound.skips)) (BitVec.ofNat Config.dimw xs.length) 0 ∧
      t.mem = s.putStopped xs.length (s.putStripes 0 xs s.mem) x ∧
      t.bp = s.bp ∧ t.mask = s.mask ∧ t.bus = s.bus ∧ t.rdata = s.rdata := by
  obtain ⟨hbusy, hwidth, hheight⟩ := hstart
  obtain ⟨t, u, hrun, ht, hu⟩ := decodeImage_stopped (startCommand_decodeLaunched hinv hheight hlaunch) hwidth hlen
    (fun st y hy => (hfinds st y hy).startCommand) hstop.startCommand
  have htransp : u.sel.hasTransp = (xs.any StripeFound.capable || x.capable) := by
    rw [hu.transp, ht.transp]
    rfl
  have hmem : u.mem = s.putStopped xs.length (s.putStripes 0 xs s.mem) x := by
    rw [hu.mem, ht.mem, putStripes_startCommand, putStopped_arguments ht.framed.arguments]
    exact putStopped_arguments (s := s) (t := startCommand s) rfl _ _ x
  refine ⟨_, runCommand_raise hbusy hrun, ?_, hmem, hu.bp.trans ht.bp, hu.mask.trans ht.mask, hu.bus.trans ht.bus,
    hu.rdata.trans ht.rdata⟩
  rw [raiseError_eq, State.setRegs_regs, htransp, hu.stripe, hu.regs, if_pos x.err_namesStripe]
  exact ht.completed x.err _ _

/-- In a picture's blob every stripe has its record (R76, R170). -/
theorem finds_pictureFounds {en : Bool} {p : Picture} (hheight : s.regs.height ≠ 0)
    (hlen : (imageBlob en p s.regs.height.toNat s.stripes).length ≤ s.regs.blobSize.toNat)
    (hblob : s.mem.bytes s.regs.blobBase.toNat (imageBlob en p s.regs.height.toNat s.stripes).length =
      imageBlob en p s.regs.height.toNat s.stripes) (st : Nat) (x : StripeFound)
    (hx : ((List.range s.stripes).map (pictureFound en p s.regs.height.toNat))[st]? = some x) : s.Finds st x := by
  obtain ⟨hlt, rfl⟩ := List.getElem?_eq_some_iff.mp hx
  rw [List.length_map, List.length_range] at hlt
  rw [List.getElem_map, List.getElem_range]
  exact finds_of_imageBlob hheight hlen hblob hlt

end

/-- Settles O53: a picture's blob is one of which every stripe is found, so it ends as such blobs do, within the footprint of
every decode. -/
theorem decodeImageWritesPicture : Obligations.DecodeImageWritesPicture := by
  refine ⟨?_, fun s xs hinv hstart hlaunch _ hfinds =>
    ⟨fun hlen => exec_decImage_found hinv hstart hlaunch hlen hfinds,
      fun stop hlen hstop => exec_decImage_stopped hinv hstart hlaunch hlen hfinds hstop⟩⟩
  rintro s en p _ hinv hstart hlaunch rfl hlen hblob hstride
  have ⟨_, _, hheight⟩ := hstart
  obtain ⟨t, hexec, hregs, hpixels⟩ := decodeImage_of_imageBlob hinv hstart hlaunch hlen hblob hstride
  obtain ⟨u, hexec', _, _, hframe⟩ := exec_decImage_found hinv hstart hlaunch
    (xs := (List.range s.stripes).map (pictureFound en p s.regs.height.toNat))
    (by rw [List.length_map, List.length_range]) (finds_pictureFounds hheight hlen hblob)
  obtain rfl := Host.Outcome.next.inj (hexec.symm.trans hexec')
  obtain ⟨hothers, _⟩ := decodeFootprint .decImage s t (.inl rfl) hinv hexec
  exact ⟨t, hexec, hregs, hpixels, hothers, hframe⟩

end Sys2Proof.Machine

namespace Sys2Proof.Machine

/-! ## A type byte requested on its own -/

/-- A recognised type byte decodes to its row (R74). -/
theorem decode_typeByte (shr₀ : ShiftWidth) (f : Family) (tcap : Bool) (shr : ShiftWidth) :
    decode .type shr₀ [typeByte f tcap shr] = .ok (typeInstr f tcap shr) := by
  have hbits : decodeBits .type shr₀ (streamBits [typeByte f tcap shr]) = .ok (typeInstr f tcap shr, []) :=
    Reads.typeByte (typeByte f tcap shr).isLt
      (by rw [BitVec.ofNat_toNat, BitVec.setWidth_eq, decodeType_eq_some.mpr rfl, Option.map_some]) []
  rw [decode, hbits]

/-- Any other byte decodes to no row (R93). -/
theorem decode_unrecognisedType (shr : ShiftWidth) {b : Byte} (h : decodeType b = none) :
    decode .type shr [b] = .error (.unrecognisedType b) := by
  have hbits : decodeBits .type shr (streamBits [b]) = .error (.unrecognisedType b) := by
    refine (BitReader.bind_ok (Reads.byte b [])).trans ?_
    rw [h]
    rfl
  rw [decode, hbits]

section
variable {s t : State} {b : Byte}

theorem fetchTypeInstr_row {i : Instr} (h : fetchType.run s = .ok b t) (hi : decode .type s.dp.shr [b] = .ok i) :
    fetchTypeInstr s = .run i t := by
  simp only [fetchTypeInstr, h, hi]

theorem fetchTypeInstr_unrecognised {e : DecodeError} (h : fetchType.run s = .ok b t)
    (he : decode .type s.dp.shr [b] = .error e) : fetchTypeInstr s = .settled (.next (warn t)) := by
  simp only [fetchTypeInstr, h, he]

theorem fetchTypeInstr_raise {e : Err} (h : fetchType.run s = .error (.raise e) t) :
    fetchTypeInstr s = .settled (.next (raiseError e t)) := by
  simp only [fetchTypeInstr, h, stopped]

end

/-- Settles O9: what the fetch of the type byte finds. -/
theorem stepRunsTypeByte : Obligations.StepRunsTypeByte := by
  intro s rest hbus hrun hblob
  have hfetch : fetch s = fetchTypeInstr (s.setBus rest) := fetch_cons hbus
  refine ⟨fun htable => step_settled (hfetch.trans ?_), fun htable hentry => step_settled (hfetch.trans ?_),
    fun htable hentry => ?_⟩
  · exact fetchTypeInstr_raise (fetchType_noEntry (s := s.setBus rest) htable)
  · exact fetchTypeInstr_raise (fetchType_outside (s := s.setBus rest) hrun hblob htable hentry)
  · have htype := fetchType_run (s := s.setBus rest) hrun hblob htable hentry
    refine ⟨fun f tcap shr hbyte => step_run (hfetch.trans ?_), fun hnone => step_settled (hfetch.trans ?_)⟩
    · refine fetchTypeInstr_row htype ((congrArg (fun b => decode .type _ [b]) hbyte).trans ?_)
      exact decode_typeByte s.dp.shr f tcap shr
    · exact fetchTypeInstr_unrecognised htype (decode_unrecognisedType s.dp.shr hnone)

end Sys2Proof.Machine

namespace Sys2Proof.Machine

/-! ## Pixels read back -/

/-- Settles O39. -/
theorem putColorsReadBack : Obligations.PutColorsReadBack := by
  intro s f tr st k cs c hinv hstride _ hlen hc
  have hrising : Memory.risingFrom 0 s.mem = true := (Bool.and_eq_true_iff.mp hinv.mem).1
  have hread := State.putColors_read (f := f) (tr := tr) (st := st) (k := 0) hrising hstride (by rwa [Nat.zero_add]) hc
  rwa [Nat.zero_add] at hread

end Sys2Proof.Machine

namespace Sys2Proof.Machine

/-! ## The header of a mask run -/

/-- What follows the header byte of a mask run (R90 to R92, R192). -/
def maskForm {m : Type → Type} [Monad m] {α : Type} (next : m Byte) (cases : MCases (m α)) (h : Byte) : m α :=
  if h = 0x00 then cases.rsvLit0
  else if h = 0x80 then cases.rsvRep0
  else if h &&& 0x80 = 0 then cases.lit (h.setWidth 7)
  else next >>= cases.rep (h.setWidth 7)

theorem walkM_eq {m : Type → Type} [Monad m] {α : Type} (next : m Byte) (cases : MCases (m α)) :
    walkM next cases = next >>= maskForm next cases := rfl

/-- Every byte is a header: a form bit above a count. -/
theorem exists_maskHeader (h : Byte) : ∃ rep n, h = maskHeader rep n := by
  refine ⟨decide (128 ≤ h.toNat), BitVec.ofNat 7 h.toNat, BitVec.eq_of_toNat_eq ?_⟩
  have hlt := h.isLt
  rw [maskHeader_toNat, BitVec.toNat_ofNat]
  by_cases hh : 128 ≤ h.toNat
  · rw [decide_eq_true hh, Bool.toNat_true]
    omega
  · rw [decide_eq_false hh, Bool.toNat_false]
    omega

/-- A repeat header as R91 writes it. -/
theorem maskHeader_true (n : BitVec 7) : maskHeader true n = 0x80 ||| n.setWidth 8 := by
  apply BitVec.eq_of_toNat_eq
  rw [maskHeader_toNat, BitVec.toNat_or, BitVec.toNat_setWidth, Nat.mod_eq_of_lt (n.isLt.trans (by decide)), Nat.add_comm]
  exact Nat.two_pow_add_eq_or_of_lt n.isLt 1

/-- A literal header as R90 writes it. -/
theorem maskHeader_false (n : BitVec 7) : maskHeader false n = n.setWidth 8 := by
  apply BitVec.eq_of_toNat_eq
  rw [maskHeader_toNat, BitVec.toNat_setWidth, Nat.mod_eq_of_lt (n.isLt.trans (by decide))]
  rfl

section
variable {m : Type → Type} [Monad m] {α : Type} (next : m Byte) (cases : MCases (m α))

theorem maskForm_literal {n : BitVec 7} (hn : n ≠ 0) : maskForm next cases (maskHeader false n) = cases.lit n := by
  obtain ⟨h0, h80⟩ := maskHeader_ne hn false
  rw [maskForm, if_neg h0, if_neg h80, maskHeader_form, maskHeader_count]
  rfl

theorem maskForm_repeat {n : BitVec 7} (hn : n ≠ 0) :
    maskForm next cases (maskHeader true n) = next >>= cases.rep n := by
  obtain ⟨h0, h80⟩ := maskHeader_ne hn true
  rw [maskForm, if_neg h0, if_neg h80, maskHeader_form, maskHeader_count]
  rfl

/-- A count of 0 is reserved, whatever the form (R92). -/
theorem maskForm_reserved (rep : Bool) :
    maskForm next cases (maskHeader rep 0) = if rep then cases.rsvRep0 else cases.rsvLit0 := by
  cases rep <;> rfl

end

/-! ## A mask run requested on its own -/

/-- The first byte of a byte string in memory, and those behind it. -/
theorem Memory.bytes_eq_cons {m : Memory} {a k : Nat} {b : Byte} {bs : List Byte} (h : m.bytes a k = b :: bs) :
    0 < k ∧ m.read a = b ∧ m.bytes (a + 1) (k - 1) = bs := by
  cases k with
  | zero => cases h
  | succ k =>
    rw [Memory.bytes_succ] at h
    obtain ⟨hfirst, hrest⟩ := List.cons.inj h
    exact ⟨k.succ_pos, hfirst, hrest⟩

/-- The next byte of a byte string, read as the decoder of the tables reads it. -/
theorem takeBits_streamBits_cons (b : Byte) (bs : List Byte) :
    takeBits 8 (streamBits (b :: bs)) = .ok (b, streamBits bs) := by
  rw [streamBits_cons]
  exact Reads.byte b _

/-- The form of the header that a byte string starts with says which run it spells. -/
theorem readMaskRun_cons (b : Byte) (bs : List Byte) : readMaskRun (streamBits (b :: bs)) =
    maskForm (takeBits 8)
      { rep := fun n v => pure (.mRep n v)
        lit := fun n => pure (.mLit n)
        rsvLit0 := pure .mRsvLit0
        rsvRep0 := pure .mRsvRep0 } b (streamBits bs) :=
  BitReader.bind_ok (takeBits_streamBits_cons b bs)

/-- A mask run is read by its header, and for a repeat run a second byte. -/
theorem decode_mrun_eq_ok {shr : ShiftWidth} {bytes : List Byte} {i : Instr} (h : decode .mrun shr bytes = .ok i) :
    (∃ rep rest, bytes = maskHeader rep 0 :: rest ∧ i = if rep then .mRsvRep0 else .mRsvLit0) ∨
    (∃ n rest, n ≠ 0 ∧ bytes = maskHeader false n :: rest ∧ i = .mLit n) ∨
    ∃ n v rest, n ≠ 0 ∧ bytes = maskHeader true n :: v :: rest ∧ i = .mRep n v := by
  have hread : ∃ more, readMaskRun (streamBits bytes) = .ok (i, more) := by
    rw [decode, decodeBits] at h
    split at h
    · next i' more hr => cases h; exact ⟨more, hr⟩
    · cases h
  obtain ⟨more, hr⟩ := hread
  cases bytes with
  | nil => cases hr
  | cons b rest =>
    obtain ⟨rep, n, rfl⟩ := exists_maskHeader b
    rw [readMaskRun_cons] at hr
    by_cases hn : n = 0
    · subst hn
      rw [maskForm_reserved] at hr
      refine .inl ⟨rep, rest, rfl, ?_⟩
      cases rep <;> cases hr <;> rfl
    cases rep with
    | false =>
      rw [maskForm_literal _ _ hn] at hr
      cases hr
      exact .inr (.inl ⟨n, rest, hn, rfl, rfl⟩)
    | true =>
      rw [maskForm_repeat _ _ hn] at hr
      cases rest with
      | nil => cases hr
      | cons v rest =>
        rw [BitReader.bind_ok (takeBits_streamBits_cons v rest)] at hr
        cases hr
        exact .inr (.inr ⟨n, v, rest, hn, rfl, rfl⟩)

section
variable {s : State}

/-- Whoever reads a mask run at `MPTR` reads its header first (R192). -/
theorem walkM_nextByte {α : Type} (cases : MCases (Act α)) (hrun : s.Running) (hend : s.blobEnd ≤ Config.addrSpace)
    (hptr : s.mask.mptr < s.blobEnd) :
    (walkM nextByte cases).run s = (maskForm nextByte cases (s.mem.read s.mask.mptr)).run (s.pastBytes 1) := by
  rw [walkM_eq, EStateM.run_bind, nextByte_reached hrun hptr hend]
  rfl

/-- At the end of the blob there is no byte to read (R193). -/
theorem nextByte_none (hptr : s.blobEnd ≤ s.mask.mptr) : nextByte.run s = .error (.raise .trunc) s := by
  rw [nextByte_run, if_pos hptr]

/-- A mask run without a header (R193, R222). -/
theorem walkM_noHeader {α : Type} (cases : MCases (Act α)) (hptr : s.blobEnd ≤ s.mask.mptr) :
    (walkM nextByte cases).run s = .error (.raise .trunc) s := by
  rw [walkM_eq, EStateM.run_bind, nextByte_none hptr]

/-- A repeat run without its value byte: its header has been read (R193, R222). -/
theorem walkM_noValue {α : Type} (cases : MCases (Act α)) (hrun : s.Running) (hend : s.blobEnd ≤ Config.addrSpace)
    (hptr : s.mask.mptr + 1 = s.blobEnd) {n : BitVec 7} (hn : n ≠ 0) (hheader : s.mem.read s.mask.mptr = maskHeader true n) :
    (walkM nextByte cases).run s = .error (.raise .trunc) (s.pastBytes 1) := by
  rw [walkM_nextByte cases hrun hend (by omega), hheader, maskForm_repeat _ _ hn, EStateM.run_bind,
    nextByte_none (s := s.pastBytes 1) hptr.ge]

/-- The value byte of a repeat run is read after its header (R192). -/
theorem walkM_repeat {α : Type} (cases : MCases (Act α)) (hrun : s.Running) (hend : s.blobEnd ≤ Config.addrSpace)
    (hptr : s.mask.mptr + 1 < s.blobEnd) {n : BitVec 7} (hn : n ≠ 0) (hheader : s.mem.read s.mask.mptr = maskHeader true n) :
    (walkM nextByte cases).run s = (cases.rep n (s.mem.read (s.mask.mptr + 1))).run (s.pastBytes 2) := by
  rw [walkM_nextByte cases hrun hend (by omega), hheader, maskForm_repeat _ _ hn, EStateM.run_bind,
    nextByte_reached (s := s.pastBytes 1) hrun hptr hend]
  rfl

theorem walkM_literal {α : Type} (cases : MCases (Act α)) (hrun : s.Running) (hend : s.blobEnd ≤ Config.addrSpace)
    (hptr : s.mask.mptr < s.blobEnd) {n : BitVec 7} (hn : n ≠ 0) (hheader : s.mem.read s.mask.mptr = maskHeader false n) :
    (walkM nextByte cases).run s = (cases.lit n).run (s.pastBytes 1) := by
  rw [walkM_nextByte cases hrun hend hptr, hheader, maskForm_literal _ _ hn]

/-- A header with a count of 0 (R92). -/
theorem walkM_reserved {α : Type} (cases : MCases (Act α)) (hrun : s.Running) (hend : s.blobEnd ≤ Config.addrSpace)
    (hptr : s.mask.mptr < s.blobEnd) {rep : Bool} (hheader : s.mem.read s.mask.mptr = maskHeader rep 0) :
    (walkM nextByte cases).run s = (if rep then cases.rsvRep0 else cases.rsvLit0).run (s.pastBytes 1) := by
  rw [walkM_nextByte cases hrun hend hptr, hheader, maskForm_reserved]

/-- The engine takes the run that the bytes at `MPTR` spell, and `MPTR` moves past its header and value byte (R192). -/
theorem fetchMaskRun_reads (hrun : s.Running) (hend : s.blobEnd ≤ Config.addrSpace) {shr : ShiftWidth} {i : Instr}
    (h : decode .mrun shr (s.mem.bytes s.mask.mptr (s.blobEnd - s.mask.mptr)) = .ok i) :
    fetchMaskRun.run s = .ok i (s.pastBytes (encode shr i).length) := by
  rw [encode_length]
  rcases decode_mrun_eq_ok h with ⟨rep, rest, hbytes, rfl⟩ | ⟨n, rest, hn, hbytes, rfl⟩ | ⟨n, v, rest, hn, hbytes, rfl⟩
  · obtain ⟨hleft, hheader, _⟩ := Memory.bytes_eq_cons hbytes
    rw [fetchMaskRun, walkM_reserved _ hrun hend (by omega) hheader]
    cases rep
    · rw [if_neg Bool.false_ne_true, if_neg Bool.false_ne_true, encodeBits, bitsOf_length]
      rfl
    · rw [if_pos rfl, if_pos rfl, encodeBits, bitsOf_length]
      rfl
  · obtain ⟨hleft, hheader, _⟩ := Memory.bytes_eq_cons hbytes
    rw [fetchMaskRun, walkM_literal _ hrun hend (by omega) hn hheader, encodeBits, List.length_append, bitsOf_length]
    rfl
  · obtain ⟨_, hheader, htail⟩ := Memory.bytes_eq_cons hbytes
    obtain ⟨hleft, hvalue, _⟩ := Memory.bytes_eq_cons htail
    rw [fetchMaskRun, walkM_repeat _ hrun hend (by omega) hn hheader, hvalue, encodeBits]
    simp only [List.length_append, bitsOf_length, List.length_singleton]
    rfl

end

/-- Settles O8. -/
theorem stepRunsMaskRun : Obligations.StepRunsMaskRun := by
  intro s rest hbus hrun hend
  have hfetch : fetch s = fetchBy fetchMaskRun (s.setBus rest) := fetch_cons hbus
  have hraise {t : State} (h : fetchMaskRun.run (s.setBus rest) = .error (.raise .trunc) t) :
      step s = .next (raiseError .trunc t) := by
    refine step_settled (hfetch.trans ?_)
    rw [fetchBy, h]
    rfl
  refine ⟨fun i h => step_run (hfetch.trans ?_), fun hptr => ?_, fun n hn hptr hheader => ?_⟩
  · rw [fetchBy, fetchMaskRun_reads (s := s.setBus rest) hrun hend h]
    rfl
  · exact hraise (walkM_noHeader (s := s.setBus rest) _ hptr)
  · exact hraise (walkM_noValue (s := s.setBus rest) _ hrun hend hptr hn (hheader.trans (maskHeader_true n).symm))

end Sys2Proof.Machine

namespace Sys2Proof.Machine

/-! ## Rows put one after the other -/

theorem State.putRows_append (s : State) (st y : Nat) (vs ws : List Byte) (m : Memory) :
    s.putRows st y (vs ++ ws) m = s.putRows st (y + vs.length) ws (s.putRows st y vs m) := by
  induction vs generalizing y m with
  | nil => rfl
  | cons v vs ih =>
    rw [List.cons_append, State.putRows, State.putRows, ih, List.length_cons, Nat.add_right_comm, Nat.add_assoc]

theorem literalRows_add (m n y : Nat) : literalRows (m + n) y = (do literalRows m y; literalRows n (y + m)) := by
  induction m generalizing y with
  | zero => rw [Nat.zero_add, literalRows, pure_bind, Nat.add_zero]
  | succ m ih =>
    rw [Nat.add_right_comm, literalRows, literalRows, ih, Nat.add_right_comm, Nat.add_assoc]
    simp only [bind_assoc]

/-- A literal run writes the rows that the blob has payload for, then finds it cut off (R192, R193). -/
theorem literalRows_short {s : State} {n y avail : Nat} (hrun : s.Running)
    (haddr : ∀ j, y ≤ j → j < y + n → s.columnAddr j < Config.addrSpace ∧
      (s.columnAddr j < s.mask.mptr ∨ s.blobEnd ≤ s.columnAddr j))
    (hptr : s.mask.mptr + avail = s.blobEnd) (hshort : avail < n) (hend : s.blobEnd ≤ Config.addrSpace) :
    (literalRows n y).run s = .error (.raise .trunc)
      ((s.pastBytes avail).setMem (s.putRows s.sel.stripe y (s.mem.bytes s.mask.mptr avail) s.mem)) := by
  obtain ⟨left, rfl⟩ := Nat.exists_eq_add_of_lt hshort
  have hrows := literalRows_reached avail (y := y) hrun (fun j hj hj' => haddr j hj (by omega)) hptr.le hend
  rw [Nat.add_assoc, literalRows_add, EStateM.run_bind, hrows]
  show (nextByte >>= _ : Act Unit).run _ = _
  rw [EStateM.run_bind, nextByte_none]
  exact hptr.ge

/-! ## Mask runs as pseudocode -/

/-- The state after `vs` were put from row `Y` on and `k` bytes were read (R192). -/
def State.filledRows (s : State) (vs : List Byte) (k : Nat) : State :=
  (s.setMask { s.mask with y := s.mask.y + vs.length, mptr := s.mask.mptr + k }).setMem
    (s.putRows s.sel.stripe s.mask.y vs s.mem)

/-- The state after `vs` were put and `k` bytes were read by a run that was cut off: `Y` has not moved (log 23). -/
def State.cutRows (s : State) (vs : List Byte) (k : Nat) : State :=
  (s.setMask { s.mask with mptr := s.mask.mptr + k }).setMem (s.putRows s.sel.stripe s.mask.y vs s.mem)

theorem State.filledRows_append (s : State) (vs ws : List Byte) (j k : Nat) :
    (s.filledRows vs j).filledRows ws k = s.filledRows (vs ++ ws) (j + k) := by
  have hmem : (s.filledRows vs j).putRows s.sel.stripe (s.mask.y + vs.length) ws (s.putRows s.sel.stripe s.mask.y vs s.mem) =
      s.putRows s.sel.stripe s.mask.y (vs ++ ws) s.mem := by
    rw [State.putRows_regs (s := s) (t := s.filledRows vs j) rfl, State.putRows_append]
  show (s.setMask { s.mask with y := s.mask.y + vs.length + ws.length, mptr := s.mask.mptr + j + k }).setMem
    ((s.filledRows vs j).putRows s.sel.stripe (s.mask.y + vs.length) ws (s.putRows s.sel.stripe s.mask.y vs s.mem)) = _
  rw [hmem, Nat.add_assoc, Nat.add_assoc, ← List.length_append]
  rfl

theorem State.pastBytes_filledRows (s : State) (j : Nat) (vs : List Byte) (k : Nat) :
    (s.pastBytes j).filledRows vs k = s.filledRows vs (j + k) := by
  rw [State.filledRows, State.filledRows, ← Nat.add_assoc, State.putRows_regs (s := s) (t := s.pastBytes j) rfl]
  rfl

theorem State.pastBytes_cutRows (s : State) (j : Nat) (vs : List Byte) (k : Nat) :
    (s.pastBytes j).cutRows vs k = s.cutRows vs (j + k) := by
  rw [State.cutRows, State.cutRows, ← Nat.add_assoc, State.putRows_regs (s := s) (t := s.pastBytes j) rfl]
  rfl

theorem State.filledRows_cutRows (s : State) (vs ws : List Byte) (j k : Nat) : (s.filledRows vs j).cutRows ws k =
    (s.setMask { s.mask with y := s.mask.y + vs.length, mptr := s.mask.mptr + (j + k) }).setMem
      (s.putRows s.sel.stripe s.mask.y (vs ++ ws) s.mem) := by
  rw [State.putRows_append, ← Nat.add_assoc, ← State.putRows_regs (s := s) (t := s.filledRows vs j) rfl _
    (s.mask.y + vs.length)]
  rfl

/-- A repeat run fills its rows, at most those left (R192, R193). -/
theorem applyMRep_run {s : State} {n : BitVec 7} (hn : n ≠ 0) (v : Byte) (hrun : s.Running)
    (haddr : ∀ j < s.regs.height.toNat, s.columnAddr j < Config.addrSpace) :
    (applyMRep n v).run s = .ok () (s.filledRows (List.replicate (s.clippedRows n) v) 0) := by
  have hrows := repeatRows_reached v (s.clippedRows n) (y := s.mask.y) hrun
    fun j hj hj' => haddr j (State.clippedRow_lt hj hj')
  rw [applyMRep, if_neg hn]
  simp only [EStateM.run_bind, EStateM.run_get, hrows, setMask_run]
  rw [State.filledRows, List.length_replicate]
  rfl

/-- A literal run fills its rows, at most those left, with as many payload bytes (R192, R193). -/
theorem applyMLit_run {s : State} {n : BitVec 7} (hn : n ≠ 0) (hrun : s.Running)
    (haddr : ∀ j < s.regs.height.toNat, s.columnAddr j < Config.addrSpace ∧
      (s.columnAddr j < s.mask.mptr ∨ s.blobEnd ≤ s.columnAddr j))
    (hptr : s.mask.mptr + s.clippedRows n ≤ s.blobEnd) (hend : s.blobEnd ≤ Config.addrSpace) :
    (applyMLit n).run s = .ok () (s.filledRows (s.mem.bytes s.mask.mptr (s.clippedRows n)) (s.clippedRows n)) := by
  have hrows := literalRows_reached (s.clippedRows n) (y := s.mask.y) hrun
    (fun j hj hj' => haddr j (State.clippedRow_lt hj hj')) hptr hend
  rw [applyMLit, if_neg hn]
  simp only [EStateM.run_bind, EStateM.run_get, hrows, setMask_run]
  rw [State.filledRows, Memory.bytes_length]
  rfl

/-- A literal run short of payload (R193). -/
theorem applyMLit_short {s : State} {n : BitVec 7} {avail : Nat} (hn : n ≠ 0) (hrun : s.Running)
    (haddr : ∀ j < s.regs.height.toNat, s.columnAddr j < Config.addrSpace ∧
      (s.columnAddr j < s.mask.mptr ∨ s.blobEnd ≤ s.columnAddr j))
    (hptr : s.mask.mptr + avail = s.blobEnd) (hshort : avail < s.clippedRows n) (hend : s.blobEnd ≤ Config.addrSpace) :
    (applyMLit n).run s = .error (.raise .trunc) (s.cutRows (s.mem.bytes s.mask.mptr avail) avail) := by
  have hrows := literalRows_short (y := s.mask.y) hrun
    (fun j hj hj' => haddr j (State.clippedRow_lt hj hj')) hptr hshort hend
  rw [applyMLit, if_neg hn]
  simp only [EStateM.run_bind, EStateM.run_get, hrows]
  rfl

/-- Settles O46. -/
theorem maskLiteralRunTruncated : Obligations.MaskLiteralRunTruncated := by
  intro s n avail hn _ hrun haddr hptr hshort hend
  have hcut := applyMLit_short hn hrun haddr hptr hshort hend
  rw [State.cutRows, hptr] at hcut
  exact runUnit_raise hcut

/-! ## The runs of a column -/

/-- What R192's loop needs: a command runs, and the rows of the column lie in the space and apart from the blob (R50, R61,
R62), into which `MPTR` points. -/
structure State.ColumnReady (s : State) : Prop where
  running : s.Running
  blob : s.blobEnd ≤ Config.addrSpace
  rows : ∀ y < s.regs.height.toNat, s.columnAddr y < Config.addrSpace ∧
    (s.columnAddr y < s.regs.blobBase.toNat ∨ s.blobEnd ≤ s.columnAddr y)
  mptr : s.regs.blobBase.toNat ≤ s.mask.mptr

section
variable {s : State}

theorem State.ColumnReady.pastBytes (hs : s.ColumnReady) (n : Nat) : (s.pastBytes n).ColumnReady :=
  ⟨hs.running, hs.blob, hs.rows, hs.mptr.trans (Nat.le_add_right _ _)⟩

theorem State.ColumnReady.filledRows (hs : s.ColumnReady) (vs : List Byte) (k : Nat) : (s.filledRows vs k).ColumnReady :=
  ⟨hs.running, hs.blob, hs.rows, hs.mptr.trans (Nat.le_add_right _ _)⟩

theorem State.ColumnReady.row_apart (hs : s.ColumnReady) {y : Nat} (hy : y < s.regs.height.toNat) :
    s.columnAddr y < Config.addrSpace ∧ (s.columnAddr y < s.mask.mptr ∨ s.blobEnd ≤ s.columnAddr y) := by
  obtain ⟨hspace, hapart⟩ := hs.rows y hy
  exact ⟨hspace, hapart.imp_left hs.mptr.trans_lt'⟩

/-- Filling rows of the column leaves the blob as it is (R61). -/
theorem State.ColumnReady.bytes_kept (hs : s.ColumnReady) {vs : List Byte}
    (hvs : s.mask.y + vs.length ≤ s.regs.height.toNat) (k : Nat) {a n : Nat} (hlow : s.regs.blobBase.toNat ≤ a)
    (hhigh : a + n ≤ s.blobEnd) : (s.filledRows vs k).mem.bytes a n = s.mem.bytes a n := by
  refine Memory.bytes_congr fun b hb hb' => State.putRows_read_other _ fun j _ hj => ?_
  have hrow := (hs.rows j (by omega)).2
  show b ≠ s.columnAddr j
  omega

/-- The header bytes of R90 and R91 for a count in 1..127. -/
theorem maskHeader_ofNat {n : Nat} (hn : n ≤ 127) :
    (0x80 ||| BitVec.ofNat 8 n : Byte) = maskHeader true (BitVec.ofNat 7 n) ∧
      BitVec.ofNat 8 n = maskHeader false (BitVec.ofNat 7 n) := by
  have hwide : (BitVec.ofNat 7 n).setWidth 8 = BitVec.ofNat 8 n := by
    apply BitVec.eq_of_toNat_eq
    rw [BitVec.toNat_setWidth, BitVec.toNat_ofNat, BitVec.toNat_ofNat]
    omega
  rw [maskHeader_true, maskHeader_false, hwide]
  exact ⟨rfl, rfl⟩

theorem ofNat_count {n : Nat} (hn : 1 ≤ n ∧ n ≤ 127) :
    (BitVec.ofNat 7 n).toNat = n ∧ BitVec.ofNat 7 n ≠ 0 := by
  have hcount : (BitVec.ofNat 7 n).toNat = n := by
    rw [BitVec.toNat_ofNat]
    omega
  refine ⟨hcount, fun h0 => ?_⟩
  rw [h0] at hcount
  have : (0 : BitVec 7).toNat = 0 := rfl
  omega

/-- One run of a record: its bytes are read and its rows put, both no further than the rows left need (R192, R193). -/
theorem decodeMaskRun_run (hs : s.ColumnReady) {r : MaskRun} (hr : r.wf) {left : Nat}
    (hleft : s.mask.y + left = s.regs.height.toNat)
    (hfits : s.mask.mptr + (r.bytes left).length ≤ s.blobEnd)
    (hbytes : s.mem.bytes s.mask.mptr (r.bytes left).length = r.bytes left) :
    decodeMaskRun.run s = .ok () (s.filledRows (r.rows.take left) (r.bytes left).length) := by
  cases r with
  | rep n v =>
    rw [MaskRun.wf, MaskRun.rows, List.length_replicate] at hr
    obtain ⟨hcount, hn⟩ := ofNat_count hr
    obtain ⟨_, hheader, hvalue⟩ := Memory.bytes_eq_cons hbytes
    obtain ⟨_, hvalue, _⟩ := Memory.bytes_eq_cons hvalue
    have hclip : (s.pastBytes 2).clippedRows (BitVec.ofNat 7 n) = min n left := by
      show min (BitVec.ofNat 7 n).toNat (s.regs.height.toNat - s.mask.y) = _
      rw [hcount, ← hleft, Nat.add_sub_cancel_left]
    rw [decodeMaskRun, walkM_repeat _ hs.running hs.blob (Nat.lt_of_succ_le hfits) hn
      (hheader.trans (maskHeader_ofNat hr.2).1), hvalue]
    refine (applyMRep_run (s := s.pastBytes 2) hn v hs.running fun j hj => (hs.rows j hj).1).trans ?_
    rw [hclip, State.pastBytes_filledRows, MaskRun.rows, List.take_replicate, Nat.min_comm]
    rfl
  | lit bs =>
    rw [MaskRun.wf, MaskRun.rows] at hr
    obtain ⟨hcount, hn⟩ := ofNat_count hr
    obtain ⟨_, hheader, hpayload⟩ := Memory.bytes_eq_cons hbytes
    rw [MaskRun.bytes, List.length_cons] at hfits hpayload
    have hclip : (s.pastBytes 1).clippedRows (BitVec.ofNat 7 bs.length) = (bs.take left).length := by
      show min (BitVec.ofNat 7 bs.length).toNat (s.regs.height.toNat - s.mask.y) = _
      rw [hcount, ← hleft, Nat.add_sub_cancel_left, List.length_take, Nat.min_comm]
    rw [decodeMaskRun, walkM_literal _ hs.running hs.blob (by omega) hn (hheader.trans (maskHeader_ofNat hr.2).2)]
    refine (applyMLit_run (s := s.pastBytes 1) hn hs.running (fun j hj => (hs.pastBytes 1).row_apart hj)
      (by rw [hclip]; exact (Nat.add_right_comm _ _ _).trans_le hfits) hs.blob).trans ?_
    rw [hclip, State.pastBytes_filledRows]
    show EStateM.Result.ok () (s.filledRows (s.mem.bytes (s.mask.mptr + 1) (bs.take left).length) _) = _
    rw [show s.mem.bytes (s.mask.mptr + 1) (bs.take left).length = bs.take left from hpayload, Nat.add_comm]
    rfl

/-- With a row left, R192's loop reads and replays the run at `MPTR`; the bytes behind it stay as they are. -/
theorem runLoop_first (hs : s.ColumnReady) {r : MaskRun} (hr : r.wf) {left : Nat}
    (hleft : s.mask.y + left = s.regs.height.toNat) (hpos : 0 < left) {rest : List Byte}
    (hfits : s.mask.mptr + (r.bytes left ++ rest).length ≤ s.blobEnd)
    (hbytes : s.mem.bytes s.mask.mptr (r.bytes left ++ rest).length = r.bytes left ++ rest) (fuel : Nat) :
    (whileUpTo State.rowsLeft decodeMaskRun (fuel + 1)).run s =
      (whileUpTo State.rowsLeft decodeMaskRun fuel).run (s.filledRows (r.rows.take left) (r.bytes left).length) ∧
    (s.filledRows (r.rows.take left) (r.bytes left).length).mem.bytes (s.mask.mptr + (r.bytes left).length) rest.length =
      rest := by
  rw [List.length_append] at hfits hbytes
  rw [Memory.bytes_add] at hbytes
  obtain ⟨hfirst, hrest⟩ := List.append_inj hbytes (Memory.bytes_length _ _ _)
  have hrows : (r.rows.take left).length ≤ left := List.length_take_le _ _
  refine ⟨?_, (hs.bytes_kept (by omega) _ (hs.mptr.trans (Nat.le_add_right _ _)) (by omega)).trans hrest⟩
  rw [whileUpTo_step _ _ (decide_eq_true (show s.mask.y < s.regs.height.toNat by omega)), EStateM.run_bind,
    decodeMaskRun_run hs hr hleft (by omega) hfirst]

theorem runBytes_zero (runs : List MaskRun) : runBytes 0 runs = [] := by cases runs <;> rfl

theorem runBytes_cons {left : Nat} (hpos : 0 < left) (r : MaskRun) (runs : List MaskRun) :
    runBytes left (r :: runs) = r.bytes left ++ runBytes (left - r.rows.length) runs := by
  cases left with
  | zero => cases hpos
  | succ n => rfl

end

/-- Runs that fill the rows left are replayed one after the other, the last one clipped (R192, R193). -/
theorem decodeRuns_run (runs : List MaskRun) {s : State} {left fuel : Nat} (hs : s.ColumnReady) (hruns : ∀ r ∈ runs, r.wf)
    (hleft : s.mask.y + left = s.regs.height.toNat) (hfill : left ≤ (runs.flatMap MaskRun.rows).length) (hfuel : left ≤ fuel)
    (hfits : s.mask.mptr + (runBytes left runs).length ≤ s.blobEnd)
    (hbytes : s.mem.bytes s.mask.mptr (runBytes left runs).length = runBytes left runs) :
    (whileUpTo State.rowsLeft decodeMaskRun fuel).run s =
      .ok () (s.filledRows ((runs.flatMap MaskRun.rows).take left) (runBytes left runs).length) := by
  induction runs generalizing s left fuel with
  | nil =>
    obtain rfl : left = 0 := Nat.le_zero.mp hfill
    exact whileUpTo_done _ _ (decide_eq_false (Nat.not_lt.mpr hleft.ge))
  | cons r runs ih =>
    rcases Nat.eq_zero_or_pos left with rfl | hpos
    · rw [List.take_zero, runBytes_zero]
      exact whileUpTo_done _ _ (decide_eq_false (Nat.not_lt.mpr hleft.ge))
    rw [runBytes_cons hpos] at hfits hbytes
    have hr : r.wf := hruns r List.mem_cons_self
    have hrows : (r.rows.take left).length = min left r.rows.length := List.length_take
    obtain ⟨fuel, rfl⟩ := Nat.exists_eq_succ_of_ne_zero (show fuel ≠ 0 by omega)
    obtain ⟨hstep, hrest⟩ := runLoop_first hs hr hleft hpos hfits hbytes fuel
    rw [List.length_append] at hfits
    have hrec := ih (s := s.filledRows (r.rows.take left) (r.bytes left).length) (left := left - r.rows.length)
      (fuel := fuel) (hs.filledRows _ _) (fun r' hr' => hruns r' (List.mem_cons_of_mem _ hr'))
      (show s.mask.y + (r.rows.take left).length + _ = s.regs.height.toNat by omega)
      (by rw [List.flatMap_cons, List.length_append] at hfill; omega) (by have := hr.1; omega)
      (show s.mask.mptr + _ + _ ≤ s.blobEnd by omega) hrest
    rw [hstep, hrec, State.filledRows_append, List.flatMap_cons, List.take_append, runBytes_cons hpos, List.length_append]

/-! ## Records that end a decode -/

section
variable {s : State}

/-- What ends a decode, met with rows left: the rows that the blob still holds payload for are written, then the error is
raised (R193, R212, R222). -/
theorem decodeMaskRun_stopped (hs : s.ColumnReady) {x : ColumnStop} {left : Nat}
    (hleft : s.mask.y + left = s.regs.height.toNat) (hfits : s.mask.mptr + x.bytes.length ≤ s.blobEnd ∨ x.bytes = [])
    (hbytes : s.mem.bytes s.mask.mptr x.bytes.length = x.bytes)
    (hx : x.wf left (s.blobEnd - (s.mask.mptr + x.bytes.length)) = true) :
    decodeMaskRun.run s = .error (.raise x.err) (s.cutRows x.rows x.bytes.length) := by
  cases x with
  | noHeader =>
    have hnone : s.blobEnd - (s.mask.mptr + 0) = 0 := of_decide_eq_true hx
    exact walkM_noHeader _ (by omega)
  | noValue n =>
    obtain ⟨hn, hrest⟩ : n ≠ 0 ∧ s.blobEnd - (s.mask.mptr + 1) = 0 := of_decide_eq_true hx
    have hptr : s.mask.mptr + 1 ≤ s.blobEnd := hfits.resolve_right (List.cons_ne_nil _ _)
    obtain ⟨_, hheader, _⟩ := Memory.bytes_eq_cons hbytes
    exact walkM_noValue _ hs.running hs.blob (by omega) hn (hheader.trans (maskHeader_true n).symm)
  | shortLiteral n bs =>
    obtain ⟨hshort, hrest⟩ : bs.length < min n.toNat left ∧ s.blobEnd - (s.mask.mptr + (bs.length + 1)) = 0 :=
      of_decide_eq_true hx
    have hptr : s.mask.mptr + (bs.length + 1) ≤ s.blobEnd := hfits.resolve_right (List.cons_ne_nil _ _)
    obtain ⟨_, hheader, hpayload⟩ := Memory.bytes_eq_cons hbytes
    have hn : n ≠ 0 := by
      rintro rfl
      exact absurd hshort (by simp)
    have hclip : (s.pastBytes 1).clippedRows n = min n.toNat left := by
      show min n.toNat (s.regs.height.toNat - s.mask.y) = _
      rw [← hleft, Nat.add_sub_cancel_left]
    rw [decodeMaskRun, walkM_literal _ hs.running hs.blob (by omega) hn (hheader.trans (maskHeader_false n).symm)]
    refine (applyMLit_short (s := s.pastBytes 1) (avail := bs.length) hn hs.running
      (fun j hj => (hs.pastBytes 1).row_apart hj) (show s.mask.mptr + 1 + bs.length = s.blobEnd by omega) (hclip ▸ hshort) hs.blob).trans ?_
    rw [State.pastBytes_cutRows]
    show EStateM.Result.error _ (s.cutRows (s.mem.bytes (s.mask.mptr + 1) bs.length) _) = _
    rw [show s.mem.bytes (s.mask.mptr + 1) bs.length = bs from hpayload, Nat.add_comm]
    rfl
  | zeroCount rep =>
    have hptr : s.mask.mptr + 1 ≤ s.blobEnd := hfits.resolve_right (List.cons_ne_nil _ _)
    obtain ⟨_, hheader, _⟩ := Memory.bytes_eq_cons hbytes
    have hreserved : (if rep then 0x80 else 0x00 : Byte) = maskHeader rep 0 := by cases rep <;> rfl
    rw [decodeMaskRun, walkM_reserved _ hs.running hs.blob hptr (hheader.trans hreserved)]
    cases rep <;> rfl

end

/-- The bytes of whole runs. -/
def wholeBytes (runs : List MaskRun) : List Byte := runs.flatMap fun r => r.bytes r.rows.length

/-- With as many rows left as a run has, its bytes are all read. -/
theorem MaskRun.bytes_of_le {r : MaskRun} {left : Nat} (h : r.rows.length ≤ left) :
    r.bytes left = r.bytes r.rows.length := by
  cases r with
  | rep n v => rfl
  | lit bs => exact congrArg _ ((List.take_of_length_le h).trans (List.take_length (l := bs)).symm)

/-- Whole runs that leave rows to fill, then what ends the decode (R193, R222). -/
theorem decodeRuns_stopped (runs : List MaskRun) {s : State} {x : ColumnStop} {left fuel : Nat} (hs : s.ColumnReady)
    (hruns : ∀ r ∈ runs, r.wf) (hleft : s.mask.y + left = s.regs.height.toNat)
    (hshort : (runs.flatMap MaskRun.rows).length < left) (hfuel : left ≤ fuel)
    (hfits : s.mask.mptr + (stopBytes runs x).length ≤ s.blobEnd ∨ stopBytes runs x = [])
    (hbytes : s.mem.bytes s.mask.mptr (stopBytes runs x).length = stopBytes runs x)
    (hx : x.wf (left - (runs.flatMap MaskRun.rows).length)
      (s.blobEnd - (s.mask.mptr + (stopBytes runs x).length)) = true) :
    (whileUpTo State.rowsLeft decodeMaskRun fuel).run s = .error (.raise x.err)
      ((s.filledRows (runs.flatMap MaskRun.rows) (wholeBytes runs).length).cutRows x.rows
        x.bytes.length) := by
  induction runs generalizing s left fuel with
  | nil =>
    obtain ⟨fuel, rfl⟩ := Nat.exists_eq_succ_of_ne_zero (show fuel ≠ 0 by omega)
    have hstop := decodeMaskRun_stopped hs hleft hfits hbytes hx
    rw [whileUpTo_step _ _ (decide_eq_true (show s.mask.y < s.regs.height.toNat by omega)), EStateM.run_bind, hstop]
    rfl
  | cons r runs ih =>
    have hr : r.wf := hruns r List.mem_cons_self
    have hsplit : stopBytes (r :: runs) x = r.bytes r.rows.length ++ stopBytes runs x := List.append_assoc _ _ _
    rw [List.flatMap_cons, List.length_append] at hshort hx
    have hwhole : r.bytes left = r.bytes r.rows.length := MaskRun.bytes_of_le (by omega)
    have htake : r.rows.take left = r.rows := List.take_of_length_le (by omega)
    have hne : r.bytes r.rows.length ≠ [] := by cases r <;> exact List.cons_ne_nil _ _
    have hfits' := hfits.resolve_right fun h0 => hne (List.append_eq_nil_iff.mp (hsplit.symm.trans h0)).1
    rw [hsplit, ← hwhole] at hfits' hbytes hx
    obtain ⟨fuel, rfl⟩ := Nat.exists_eq_succ_of_ne_zero (show fuel ≠ 0 by omega)
    obtain ⟨hstep, hrest⟩ := runLoop_first hs hr hleft (by omega) hfits' hbytes fuel
    rw [hwhole, htake] at hstep hrest
    rw [hwhole, List.length_append] at hfits' hx
    have hrec := ih (s := s.filledRows r.rows (r.bytes r.rows.length).length) (left := left - r.rows.length)
      (fuel := fuel) (hs.filledRows _ _) (fun r' hr' => hruns r' (List.mem_cons_of_mem _ hr'))
      (show s.mask.y + r.rows.length + _ = s.regs.height.toNat by omega)
      (by omega) (by have := hr.1; omega)
      (.inl (show s.mask.mptr + _ + _ ≤ s.blobEnd by omega)) hrest
      (by
        rw [Nat.sub_sub]
        show x.wf _ (s.blobEnd - (s.mask.mptr + _ + _)) = true
        rw [Nat.add_assoc]
        exact hx)
    rw [hstep, hrec, State.filledRows_append, List.flatMap_cons, wholeBytes, wholeBytes, List.flatMap_cons,
      List.length_append]

/-! ## `DEC_MASK_COL` -/

/-- The state in which R192's loop starts. -/
def State.atRecord (s : State) (st a : Nat) : State := (s.onStripe st).setMask { s.mask with mptr := a, y := 0 }

theorem decodeColumn_loop (s : State) (st ofs : Nat) : (decodeColumn st ofs).run s =
    (whileUpTo State.rowsLeft decodeMaskRun s.regs.height.toNat).run (s.atRecord st (s.regs.blobBase.toNat + ofs)) := rfl

/-- The column of stripe `st` can be decoded: its rows lie in the space and apart from the blob (R61, R62). -/
structure State.ColumnApart (s : State) (st : Nat) : Prop where
  running : s.Running
  blob : s.blobEnd ≤ Config.addrSpace
  rows : ∀ y < s.regs.height.toNat, s.rowAddr st y < Config.addrSpace ∧
    (s.rowAddr st y < s.regs.blobBase.toNat ∨ s.blobEnd ≤ s.rowAddr st y)

section
variable {s : State} {st ofs : Nat}

theorem State.ColumnApart.atRecord (hs : s.ColumnApart st) (ofs : Nat) :
    (s.atRecord st (s.regs.blobBase.toNat + ofs)).ColumnReady :=
  ⟨hs.running, hs.blob, hs.rows, Nat.le_add_right _ _⟩

/-- The state after a column whose record fills it (R192). -/
def State.columnDecoded (s : State) (st a : Nat) (runs : List MaskRun) : State :=
  ((s.onStripe st).setMask { s.mask with
    y := s.regs.height.toNat
    mptr := a + (runBytes s.regs.height.toNat runs).length }).setMem
      (s.putRows st 0 ((runs.flatMap MaskRun.rows).take s.regs.height.toNat) s.mem)

/-- The state in which a record ends the decode (R193, log 23). -/
def State.columnCut (s : State) (st a : Nat) (runs : List MaskRun) (x : ColumnStop) : State :=
  ((s.onStripe st).setMask { s.mask with
    y := (runs.flatMap MaskRun.rows).length
    mptr := a + (stopBytes runs x).length }).setMem (s.putRows st 0 (stopRows runs x) s.mem)

theorem decodeColumn_run (hs : s.ColumnApart st) {runs : List MaskRun}
    (hruns : s.HoldsRuns (s.regs.blobBase.toNat + ofs) runs) :
    (decodeColumn st ofs).run s = .ok () (s.columnDecoded st (s.regs.blobBase.toNat + ofs) runs) := by
  obtain ⟨hwf, hfill, hfits, hbytes⟩ := hruns
  have hloop := decodeRuns_run runs (hs.atRecord ofs) hwf (left := s.regs.height.toNat) (Nat.zero_add _) hfill le_rfl
    hfits hbytes
  rw [decodeColumn_loop, hloop, State.columnDecoded, State.filledRows, List.length_take_of_le hfill]
  show EStateM.Result.ok () (((s.onStripe st).setMask { s.mask with y := 0 + s.regs.height.toNat, mptr := _ }).setMem
    ((s.atRecord st (s.regs.blobBase.toNat + ofs)).putRows st 0 _ s.mem)) = _
  rw [Nat.zero_add, State.putRows_regs (s := s) (t := s.atRecord st _) rfl]
  rfl

theorem decodeColumn_stopped (hs : s.ColumnApart st) {runs : List MaskRun} {x : ColumnStop}
    (hstop : s.RunsStop (s.regs.blobBase.toNat + ofs) runs x) :
    (decodeColumn st ofs).run s = .error (.raise x.err) (s.columnCut st (s.regs.blobBase.toNat + ofs) runs x) := by
  obtain ⟨hwf, hshort, hfits, hbytes, hx⟩ := hstop
  have hloop := decodeRuns_stopped runs (hs.atRecord ofs) hwf (left := s.regs.height.toNat) (Nat.zero_add _) hshort le_rfl
    hfits hbytes hx
  rw [decodeColumn_loop, hloop, State.filledRows_cutRows, ← List.length_append]
  show EStateM.Result.error _ (((s.onStripe st).setMask { s.mask with y := 0 + _, mptr := _ }).setMem
    ((s.atRecord st (s.regs.blobBase.toNat + ofs)).putRows st 0 (stopRows runs x) s.mem)) = _
  rw [Nat.zero_add, State.putRows_regs (s := s) (t := s.atRecord st _) rfl]
  rfl

end

/-- Settles O49. -/
theorem maskColumnDecoder : Obligations.MaskColumnDecoder := by
  intro s st ofs _ hrun hrows hend
  have hs : s.ColumnApart st.toNat := ⟨hrun, hend, hrows⟩
  refine ⟨fun runs hruns => ⟨_, runUnit_ok (decodeColumn_run hs hruns), rfl, fun a ha => ?_⟩,
    fun runs x hstop => runUnit_raise (decodeColumn_stopped hs hstop)⟩
  refine State.putRows_read_other _ fun j _ hj => ha j ?_
  rw [List.length_take] at hj
  omega

end Sys2Proof.Machine

namespace Sys2Proof.Machine

/-! ## The runs of a column's record -/

/-- Runs that fill no more rows than wanted are read whole (R193). -/
theorem runBytes_eq_wholeBytes {left : Nat} {runs : List MaskRun} (hruns : ∀ r ∈ runs, r.wf)
    (hfit : (runs.flatMap MaskRun.rows).length ≤ left) : runBytes left runs = wholeBytes runs := by
  induction runs generalizing left with
  | nil => cases left <;> rfl
  | cons r runs ih =>
    have hr := hruns r List.mem_cons_self
    rw [List.flatMap_cons, List.length_append] at hfit
    rw [runBytes_cons (by omega), MaskRun.bytes_of_le (by omega),
      ih (fun r' hr' => hruns r' (List.mem_cons_of_mem _ hr')) (by omega)]
    rfl

/-- Rows that belong to the last repeat run start no run of their own. -/
theorem maskRuns_drop (lit : List Byte) (skip : Nat) (col : List Byte) :
    maskRuns lit skip col = maskRuns lit 0 (col.drop skip) := by
  induction skip generalizing col with
  | zero => rfl
  | succ skip ih =>
    cases col with
    | nil => rfl
    | cons v vs => rw [maskRuns, ih, List.drop_succ_cons]

/-- The rows of a repeat run: at most 127 of the equal ones (R190). -/
def repeatCount (v : Byte) (vs : List Byte) : Nat := min (runLength v (v :: vs)) 127

theorem repeatCount_bounds {v : Byte} {vs : List Byte} (h : 2 < runLength v (v :: vs)) :
    3 ≤ repeatCount v vs ∧ repeatCount v vs ≤ 127 :=
  ⟨le_min h (by decide), min_le_right _ _⟩

theorem take_repeatCount (v : Byte) (vs : List Byte) :
    (v :: vs).take (repeatCount v vs) = List.replicate (repeatCount v vs) v :=
  take_runLength v (min_le_left _ _)

theorem repeatCount_le (v : Byte) (vs : List Byte) : repeatCount v vs ≤ (v :: vs).length := by
  have hlen := congrArg List.length (take_repeatCount v vs)
  rw [List.length_take, List.length_replicate] at hlen
  omega

theorem maskRuns_repeat {lit : List Byte} {v : Byte} {vs : List Byte} (h : 2 < runLength v (v :: vs)) :
    maskRuns lit 0 (v :: vs) =
      literalRun lit ++ .rep (repeatCount v vs) v :: maskRuns [] 0 ((v :: vs).drop (repeatCount v vs)) := by
  obtain ⟨hpos, _⟩ := repeatCount_bounds h
  obtain ⟨k, hk⟩ := Nat.exists_eq_succ_of_ne_zero (show repeatCount v vs ≠ 0 by omega)
  rw [maskRuns, if_pos h, ← repeatCount, maskRuns_drop [] (_ - 1), hk]
  rfl

/-- A literal run that has reached 127 rows ends (R190). -/
theorem maskRuns_full {lit : List Byte} {v : Byte} {vs : List Byte} (h : ¬ 2 < runLength v (v :: vs))
    (hfull : lit.length + 1 = 127) : maskRuns lit 0 (v :: vs) = .lit (lit ++ [v]) :: maskRuns [] 0 vs := by
  rw [maskRuns, if_neg h, if_pos hfull]

theorem maskRuns_literal {lit : List Byte} {v : Byte} {vs : List Byte} (h : ¬ 2 < runLength v (v :: vs))
    (hmore : lit.length + 1 ≠ 127) : maskRuns lit 0 (v :: vs) = maskRuns (lit ++ [v]) 0 vs := by
  rw [maskRuns, if_neg h, if_neg hmore]

/-- The course of R190 over a column: a repeat run, a literal run that is full, or one more literal row, with the pending
literal `lit`. -/
theorem column_induction {P : List Byte → List Byte → Prop} (nil : ∀ lit, P lit [])
    (rep : ∀ lit v vs, 2 < runLength v (v :: vs) → P [] ((v :: vs).drop (repeatCount v vs)) → P lit (v :: vs))
    (full : ∀ lit v vs, ¬ 2 < runLength v (v :: vs) → lit.length + 1 = 127 → P [] vs → P lit (v :: vs))
    (more : ∀ lit v vs, ¬ 2 < runLength v (v :: vs) → lit.length + 1 ≠ 127 → P (lit ++ [v]) vs → P lit (v :: vs))
    (lit col : List Byte) : P lit col := by
  induction hn : col.length using Nat.strong_induction_on generalizing lit col with
  | _ n ih =>
    subst hn
    cases col with
    | nil => exact nil lit
    | cons v vs =>
      by_cases h : 2 < runLength v (v :: vs)
      · obtain ⟨hpos, _⟩ := repeatCount_bounds h
        exact rep lit v vs h (ih _ (by rw [List.length_drop, List.length_cons]; omega) _ _ rfl)
      by_cases hfull : lit.length + 1 = 127
      · exact full lit v vs h hfull (ih _ (Nat.lt_succ_self _) _ _ rfl)
      · exact more lit v vs h hfull (ih _ (Nat.lt_succ_self _) _ _ rfl)

theorem literalRun_rows (lit : List Byte) : (literalRun lit).flatMap MaskRun.rows = lit := by
  rw [literalRun]
  split
  · next h => rw [h]; rfl
  · exact List.append_nil _

theorem literalRun_wf {lit : List Byte} (h : lit.length ≤ 127) : ∀ r ∈ literalRun lit, r.wf := by
  intro r hr
  rw [literalRun] at hr
  split at hr
  · cases hr
  · next hne =>
    obtain rfl := List.mem_singleton.mp hr
    exact ⟨List.length_pos_iff.mpr hne, h⟩

/-- The runs of R190 fill the rows of the column, those of the pending literal first. -/
theorem maskRuns_rows (lit col : List Byte) : (maskRuns lit 0 col).flatMap MaskRun.rows = lit ++ col := by
  induction lit, col using column_induction with
  | nil lit => rw [maskRuns, literalRun_rows, List.append_nil]
  | rep lit v vs h ih =>
    rw [maskRuns_repeat h, List.flatMap_append, literalRun_rows, List.flatMap_cons, ih, MaskRun.rows, ← take_repeatCount,
      List.nil_append, List.take_append_drop]
  | full lit v vs h hfull ih =>
    rw [maskRuns_full h hfull, List.flatMap_cons, ih, MaskRun.rows, List.nil_append, List.append_assoc,
      List.singleton_append]
  | more lit v vs h hmore ih => rw [maskRuns_literal h hmore, ih, List.append_assoc, List.singleton_append]

theorem maskRuns_wf (lit col : List Byte) (hlit : lit.length < 127) : ∀ r ∈ maskRuns lit 0 col, r.wf := by
  induction lit, col using column_induction with
  | nil lit => exact literalRun_wf hlit.le
  | rep lit v vs h ih =>
    have hr : (MaskRun.rep (repeatCount v vs) v).wf := by
      obtain ⟨hlow, hhigh⟩ := repeatCount_bounds h
      rw [MaskRun.wf, MaskRun.rows, List.length_replicate]
      omega
    rw [maskRuns_repeat h]
    exact List.forall_mem_append.mpr ⟨literalRun_wf hlit.le, List.forall_mem_cons.mpr ⟨hr, ih Nat.succ_pos'⟩⟩
  | full lit v vs h hfull ih =>
    have hr : (MaskRun.lit (lit ++ [v])).wf := by
      rw [MaskRun.wf, MaskRun.rows, List.length_append, List.length_singleton]
      omega
    rw [maskRuns_full h hfull]
    exact List.forall_mem_cons.mpr ⟨hr, ih Nat.succ_pos'⟩
  | more lit v vs h hmore ih =>
    rw [maskRuns_literal h hmore]
    exact ih (by rw [List.length_append, List.length_singleton]; omega)

/-- The record of a column is its runs, each whole (R190). -/
theorem maskRecord_eq (col : List Byte) : maskRecord col = wholeBytes (maskRuns [] 0 col) :=
  runBytes_eq_wholeBytes (maskRuns_wf [] col (by decide)) (by rw [maskRuns_rows]; rfl)

/-! ## `ENC_MASK_COL` -/

theorem wholeBytes_append (rs rs' : List MaskRun) : wholeBytes (rs ++ rs') = wholeBytes rs ++ wholeBytes rs' :=
  List.flatMap_append

/-- The codec's registers after runs that take `n` rows were written, with no pending literal (R190). -/
def MaskRegs.withRuns (m : MaskRegs) (rs : List MaskRun) (n : Nat) : MaskRegs :=
  { m with out := m.out ++ wholeBytes rs, litbuf := [], y := m.y + n }

theorem MaskRegs.withRuns_append (m : MaskRegs) (rs rs' : List MaskRun) (j k : Nat) :
    (m.withRuns rs j).withRuns rs' k = m.withRuns (rs ++ rs') (j + k) := by
  rw [MaskRegs.withRuns, MaskRegs.withRuns, MaskRegs.withRuns, wholeBytes_append, ← List.append_assoc, ← Nat.add_assoc]

/-- A literal run is its count and its rows (R90). -/
theorem wholeBytes_lit (bs : List Byte) : wholeBytes [.lit bs] = BitVec.ofNat 8 bs.length :: bs := by
  show (BitVec.ofNat 8 bs.length :: bs.take bs.length) ++ [] = _
  rw [List.take_length, List.append_nil]

theorem wholeBytes_rep (n : Nat) (v : Byte) : wholeBytes [.rep n v] = [0x80 ||| BitVec.ofNat 8 n, v] := rfl

/-- `flush_lit` writes the pending literal as a run (R190). -/
theorem MaskRegs.flushLit_eq (m : MaskRegs) : m.flushLit = m.withRuns (literalRun m.litbuf) 0 := by
  rw [MaskRegs.flushLit, MaskRegs.litcnt, literalRun, MaskRegs.withRuns]
  by_cases h : m.litbuf = []
  · rw [if_pos h, if_neg (by rw [h]; exact Nat.lt_irrefl 0)]
    exact congrArg (fun o => { m with out := o, litbuf := [] }) (List.append_nil _).symm
  · rw [if_neg h, if_pos (List.length_pos_iff.mpr h), wholeBytes_lit]
    rfl

section
variable {n : Nat} {m : MaskRegs} {v : Byte} {vs : List Byte}

theorem encodeColumnLoop_repeat (h : 2 < runLength v (v :: vs)) : encodeColumnLoop (n + 1) m (v :: vs) =
    encodeColumnLoop n (m.withRuns (literalRun m.litbuf ++ [.rep (repeatCount v vs) v]) (repeatCount v vs))
      ((v :: vs).drop (repeatCount v vs)) := by
  have hlong : Config.mrunMin ≤ runLength v (v :: vs) := h
  rw [encodeColumnLoop, if_pos hlong, MaskRegs.flushLit_eq, MaskRegs.withRuns, MaskRegs.withRuns, wholeBytes_append,
    ← List.append_assoc, wholeBytes_rep]
  rfl

theorem encodeColumnLoop_full (h : ¬ 2 < runLength v (v :: vs)) (hfull : m.litbuf.length + 1 = 127) :
    encodeColumnLoop (n + 1) m (v :: vs) = encodeColumnLoop n (m.withRuns [.lit (m.litbuf ++ [v])] 1) vs := by
  have hshort : ¬ Config.mrunMin ≤ runLength v (v :: vs) := h
  have hcount : m.litcnt + 1 = Config.mrunMax := hfull
  rw [encodeColumnLoop, if_neg hshort, if_pos hcount, MaskRegs.flushLit_eq, literalRun,
    if_neg (List.append_ne_nil_of_right_ne_nil _ (List.cons_ne_nil _ _))]
  rfl

theorem encodeColumnLoop_literal (h : ¬ 2 < runLength v (v :: vs)) (hmore : m.litbuf.length + 1 ≠ 127) :
    encodeColumnLoop (n + 1) m (v :: vs) = encodeColumnLoop n { m with litbuf := m.litbuf ++ [v], y := m.y + 1 } vs := by
  have hshort : ¬ Config.mrunMin ≤ runLength v (v :: vs) := h
  have hcount : ¬ m.litcnt + 1 = Config.mrunMax := hmore
  rw [encodeColumnLoop, if_neg hshort, if_neg hcount]

end

/-- R190's loop writes the runs of the column behind what is there, the pending literal's rows first. -/
theorem encodeColumnLoop_runs (lit col : List Byte) {n : Nat} {m : MaskRegs} (hn : col.length ≤ n) (hlit : m.litbuf = lit) :
    (encodeColumnLoop n m col).flushLit = m.withRuns (maskRuns lit 0 col) col.length := by
  have hfuel {v : Byte} {vs : List Byte} {n : Nat} (h : (v :: vs).length ≤ n) : ∃ k, n = k + 1 ∧ vs.length ≤ k :=
    ⟨n - 1, by rw [List.length_cons] at h; omega, by rw [List.length_cons] at h; omega⟩
  induction lit, col using column_induction generalizing n m with
  | nil lit =>
    have hloop : encodeColumnLoop n m [] = m := by cases n <;> rfl
    rw [hloop, MaskRegs.flushLit_eq, hlit]
    rfl
  | rep lit v vs h ih =>
    obtain ⟨n, rfl, hvs⟩ := hfuel hn
    obtain ⟨hpos, _⟩ := repeatCount_bounds h
    have hle := repeatCount_le v vs
    have hlen : ((v :: vs).drop (repeatCount v vs)).length = (v :: vs).length - repeatCount v vs := List.length_drop
    rw [encodeColumnLoop_repeat h, ih (by rw [List.length_cons] at hlen; omega) rfl, MaskRegs.withRuns_append, hlit,
      maskRuns_repeat h, hlen, Nat.add_sub_cancel' hle, List.append_assoc]
    rfl
  | full lit v vs h hfull ih =>
    obtain ⟨n, rfl, hvs⟩ := hfuel hn
    rw [encodeColumnLoop_full h (hlit ▸ hfull), ih hvs rfl, MaskRegs.withRuns_append, hlit, maskRuns_full h hfull,
      Nat.add_comm]
    rfl
  | more lit v vs h hmore ih =>
    obtain ⟨n, rfl, hvs⟩ := hfuel hn
    rw [encodeColumnLoop_literal h (hlit ▸ hmore), ih hvs (by rw [hlit]), maskRuns_literal h hmore, List.length_cons,
      Nat.add_comm vs.length, MaskRegs.withRuns, MaskRegs.withRuns, ← Nat.add_assoc]

/-- R190 on a column: its record in `out`, `Y` past its rows, the record's length in `MPTR`, no pending literal. -/
theorem MaskRegs.encodeColumn_record (m : MaskRegs) (col : List Byte) : m.encodeColumn col = { m with
    litbuf := [], y := col.length, mptr := (maskRecord col).length, out := maskRecord col } := by
  have hloop := encodeColumnLoop_runs [] col (m := { m with out := [], litbuf := [], y := 0 }) le_rfl rfl
  rw [MaskRegs.encodeColumn, hloop, maskRecord_eq, MaskRegs.withRuns]
  simp only [List.nil_append, Nat.zero_add]

/-- The column at `PIX_BASE` (R197) is read when its rows lie in the space. -/
theorem readColumn_run (s : State) (n y : Nat) (h : ∀ j, y ≤ j → j < y + n → s.reaches (s.columnAddr j) = true) :
    (readColumn n y).run s = .ok ((List.range' y n).map fun j => s.mem.read (s.columnAddr j)) s := by
  induction n generalizing y with
  | zero => rfl
  | succ n ih =>
    have hfirst : (readByte (s.columnAddr y)).run s = .ok (s.mem.read (s.columnAddr y)) s := by
      rw [readByte_run, if_pos (h y le_rfl (by omega))]
    have hrest := ih (y + 1) fun j hj hj' => h j (by omega) (by omega)
    rw [readColumn, List.range'_succ, List.map_cons]
    simp only [EStateM.run_bind, EStateM.run_get, hfirst, hrest, EStateM.run_pure]

/-- A command runs (R50) and the rows of a column lie in the space (R62). -/
abbrev State.ColumnReachable (s : State) (st : Nat) : Prop :=
  s.Running ∧ ∀ y < s.regs.height.toNat, s.rowAddr st y < Config.addrSpace

theorem readColumn_column {s : State} {st : Nat} (hr : s.ColumnReachable st) :
    (readColumn s.regs.height.toNat 0).run (s.onStripe st) =
      .ok (columnOf s.picture s.regs.height.toNat st) (s.onStripe st) := by
  obtain ⟨hrun, hrows⟩ := hr
  rw [readColumn_run (s.onStripe st) _ 0 fun j _ hj =>
    (State.reaches_iff _ _).mpr ⟨hrun, hrows j (by rwa [Nat.zero_add] at hj)⟩, ← List.range_eq_range']
  rfl

/-- The state after `ENC_MASK_COL` (R190). -/
def State.columnEncoded (s : State) (st : Nat) : State := (s.onStripe st).setMask { s.mask with
  litbuf := []
  y := s.regs.height.toNat
  mptr := (maskRecord (columnOf s.picture s.regs.height.toNat st)).length
  out := maskRecord (columnOf s.picture s.regs.height.toNat st) }

theorem columnOf_length (p : Picture) (h st : Nat) : (columnOf p h st).length = h := by
  rw [columnOf, List.length_map, List.length_range]

theorem encodeColumn_run {s : State} {st : Nat} (hr : s.ColumnReachable st) :
    (encodeColumn st).run s = .ok () (s.columnEncoded st) := by
  show (do let col ← readColumn s.regs.height.toNat 0; setMask fun m => m.encodeColumn col : Act Unit).run
    (s.onStripe st) = _
  rw [EStateM.run_bind, readColumn_column hr]
  show EStateM.Result.ok () ((s.onStripe st).setMask
    (s.mask.encodeColumn (columnOf s.picture s.regs.height.toNat st))) = _
  rw [MaskRegs.encodeColumn_record, columnOf_length]
  rfl

/-- Settles O48. -/
theorem maskColumnEncoder : Obligations.MaskColumnEncoder :=
  fun _ _ hrun hrows => runUnit_ok (encodeColumn_run ⟨hrun, hrows⟩)

end Sys2Proof.Machine

namespace Sys2Proof.Machine

/-! ## The offsets and records of a mask blob -/

/-- A column of zeros, which has no record (R194). -/
abbrev AbsentColumn (p : Picture) (h st : Nat) : Prop := (columnOf p h st).all (fun b => decide (b = 0)) = true

theorem maskEntry_absent {p : Picture} {h st : Nat} (n : Nat) (h0 : AbsentColumn p h st) :
    maskEntry p h n st = 0 ∧ maskRecordOf p h st = [] := by
  rw [maskEntry, maskRecordOf, if_pos h0, if_pos h0]
  exact ⟨rfl, rfl⟩

theorem maskEntry_present {p : Picture} {h st : Nat} (n : Nat) (h0 : ¬ AbsentColumn p h st) :
    maskEntry p h n st = maskOffset p h n st ∧ maskRecordOf p h st = maskRecord (columnOf p h st) := by
  rw [maskEntry, maskRecordOf, if_neg h0, if_neg h0]
  exact ⟨rfl, rfl⟩

theorem maskOffset_succ (p : Picture) (h n st : Nat) :
    maskOffset p h n (st + 1) = maskOffset p h n st + (maskRecordOf p h st).length := by
  rw [maskOffset, maskOffset, List.range_succ, List.map_append, List.sum_append, List.map_singleton, List.sum_singleton,
    Nat.add_assoc]

/-- The offset table of `n` stripes takes two bytes a stripe (R78). -/
theorem maskTable_length (f : Nat → Nat) (n : Nat) : ((List.range n).flatMap fun st => bytesLE 2 (f st)).length = 2 * n := by
  simp only [List.length_flatMap, bytesLE_length, List.map_const', List.sum_replicate_nat, List.length_range, Nat.mul_comm]

theorem maskBlob_length (p : Picture) (h n : Nat) : (maskBlob p h n).length = maskOffset p h n n := by
  rw [maskBlob, List.length_append, maskTable_length, List.length_flatMap, maskOffset]

/-! ## Pass 1 of `ENC_MASK` -/

/-- What no mask command changes as long as it runs: the host's registers, `HAS_TRANSP`, the Bit Packer and Unpacker, the
stripe datapath and the requests. -/
structure MaskFrame (s₀ s : State) : Prop where
  regs : s.regs = s₀.regs
  transp : s.sel.hasTransp = s₀.sel.hasTransp
  bp : s.bp = s₀.bp
  bu : s.bu = s₀.bu
  dp : s.dp = s₀.dp
  bus : s.bus = s₀.bus
  rdata : s.rdata = s₀.rdata

/-- R194's first loop has sized the columns below `i`: their entries, their records, and the offset behind them. -/
structure MaskSizedBelow (s₀ : State) (i : Nat) (s : State) : Prop extends MaskFrame s₀ s where
  mem : s.mem = s₀.mem
  zofs : s.mask.zofs = (List.range i).map (maskEntry s₀.picture s₀.regs.height.toNat s₀.stripes)
  recs : s.mask.recs = (List.range i).map (maskRecordOf s₀.picture s₀.regs.height.toNat)
  total : s.sel.total = maskOffset s₀.picture s₀.regs.height.toNat s₀.stripes i

/-- The registers with which a mask command ends (R212, R218): it counts no warning and no stripe is transparent. -/
theorem MaskFrame.completeOk_regs {s t : State} (h : MaskFrame (startCommand s) t) (n : Nat) :
    (completeOk n t).regs = s.regs.finished .ok false 0 0 n := by
  rw [completeOk_eq, State.setRegs_regs, h.regs, h.transp]
  rfl

theorem MaskFrame.raiseError_regs {s t : State} (h : MaskFrame (startCommand s) t) (e : Err) :
    (raiseError e t).regs =
      s.regs.finished e false 0 (if e.namesStripe then BitVec.ofNat Config.dimw t.sel.stripe else 0) 0 := by
  rw [raiseError_eq, State.setRegs_regs, h.regs, h.transp]
  rfl

theorem columnReachable_congr {s t : State} (hregs : t.regs = s.regs) {st : Nat} (h : s.ColumnReachable st) :
    t.ColumnReachable st := by
  simpa only [State.ColumnReachable, State.Running, State.rowAddr, State.columnAddr, State.onStripe, State.setSel_regs,
    State.setSel_sel, hregs] using h

/-- The state after a column of zeros was sized (R194). -/
def State.sizedAbsent (s : State) (st : Nat) : State :=
  (s.onStripe st).setMask { s.mask with zofs := s.mask.zofs ++ [0], recs := s.mask.recs ++ [[]] }

/-- The state after a column with a record was sized (R194). -/
def State.sizedPresent (s : State) (st : Nat) : State :=
  ((s.columnEncoded st).setMask { (s.columnEncoded st).mask with
    zofs := s.mask.zofs ++ [s.sel.total]
    recs := s.mask.recs ++ [(s.columnEncoded st).mask.out] }).setSel { s.sel with
      stripe := st
      total := s.sel.total + (s.columnEncoded st).mask.out.length }

/-- R194's first loop on one stripe, once its column has been read. -/
def sizeBytes (st : Nat) (col : List Byte) : Act Unit := do
  if col.all (fun b => decide (b = 0)) then
    setMask fun m => { m with zofs := m.zofs ++ [0], recs := m.recs ++ [[]] }
  else do
    let ofs := (← get).sel.total
    if 0xFFFF < ofs then
      throw (.raise .range)
    else do
      encodeColumn st
      setMask fun m => { m with zofs := m.zofs ++ [ofs], recs := m.recs ++ [m.out] }
      modify fun s => s.setSel { s.sel with total := s.sel.total + s.mask.out.length }

section
variable {s : State} {st : Nat}

theorem sizeColumn_run (hr : s.ColumnReachable st) :
    (sizeColumn st).run s = (sizeBytes st (columnOf s.picture s.regs.height.toNat st)).run (s.onStripe st) := by
  show (readColumn s.regs.height.toNat 0 >>= sizeBytes st).run (s.onStripe st) = _
  rw [EStateM.run_bind, readColumn_column hr]

theorem sizeColumn_absent (hr : s.ColumnReachable st) (h0 : AbsentColumn s.picture s.regs.height.toNat st) :
    (sizeColumn st).run s = .ok () (s.sizedAbsent st) := by
  rw [sizeColumn_run hr, sizeBytes, if_pos h0]
  rfl

/-- The offset of a column's record is tested before anything else is done with it (R194, R221). -/
theorem sizeBytes_present {col : List Byte} (h0 : ¬ col.all (fun b => decide (b = 0)) = true) :
    (sizeBytes st col).run s = (if 0xFFFF < s.sel.total then throw (.raise .range) else do
      encodeColumn st
      setMask fun m => { m with zofs := m.zofs ++ [s.sel.total], recs := m.recs ++ [m.out] }
      modify fun s => s.setSel { s.sel with total := s.sel.total + s.mask.out.length } : Act Unit).run s := by
  rw [sizeBytes, if_neg h0]
  rfl

theorem sizeColumn_range (hr : s.ColumnReachable st) (h0 : ¬ AbsentColumn s.picture s.regs.height.toNat st)
    (hofs : 0xFFFF < s.sel.total) : (sizeColumn st).run s = .error (.raise .range) (s.onStripe st) := by
  rw [sizeColumn_run hr, sizeBytes_present h0, if_pos (show 0xFFFF < (s.onStripe st).sel.total from hofs)]
  rfl

theorem sizeColumn_present (hr : s.ColumnReachable st) (h0 : ¬ AbsentColumn s.picture s.regs.height.toNat st)
    (hofs : s.sel.total ≤ 0xFFFF) : (sizeColumn st).run s = .ok () (s.sizedPresent st) := by
  have hencode : (encodeColumn st).run (s.onStripe st) = .ok () (s.columnEncoded st) :=
    encodeColumn_run (s := s.onStripe st) hr
  rw [sizeColumn_run hr, sizeBytes_present h0, if_neg (show ¬ 0xFFFF < (s.onStripe st).sel.total from not_lt.mpr hofs),
    EStateM.run_bind, hencode]
  rfl

end

section
variable {s₀ s : State} {i : Nat}

/-- One more column, whose offset entry fits 16 bits (R194). -/
theorem MaskSizedBelow.step (h : MaskSizedBelow s₀ i s) (hr : s₀.ColumnReachable i)
    (hofs : maskEntry s₀.picture s₀.regs.height.toNat s₀.stripes i ≤ 0xFFFF) :
    ∃ t, (sizeColumn i).run s = .ok () t ∧ MaskSizedBelow s₀ (i + 1) t := by
  have hr' : s.ColumnReachable i := columnReachable_congr h.regs hr
  have hpicture := picture_congr h.regs h.mem
  by_cases h0 : AbsentColumn s₀.picture s₀.regs.height.toNat i
  · obtain ⟨hentry, hrecord⟩ := maskEntry_absent s₀.stripes h0
    refine ⟨_, sizeColumn_absent hr' (by rwa [hpicture, h.regs]), ⟨h.regs, h.transp, h.bp, h.bu, h.dp, h.bus, h.rdata⟩,
      h.mem, ?_, ?_, ?_⟩
    · show s.mask.zofs ++ [0] = _
      rw [h.zofs, List.range_succ, List.map_append, List.map_singleton, hentry]
    · show s.mask.recs ++ [[]] = _
      rw [h.recs, List.range_succ, List.map_append, List.map_singleton, hrecord]
    · show s.sel.total = _
      rw [h.total, maskOffset_succ, hrecord]
      rfl
  · obtain ⟨hentry, hrecord⟩ := maskEntry_present s₀.stripes h0
    have hout : (s.columnEncoded i).mask.out = maskRecordOf s₀.picture s₀.regs.height.toNat i := by
      rw [hrecord, ← hpicture, ← h.regs]
      rfl
    refine ⟨_, sizeColumn_present hr' (by rwa [hpicture, h.regs]) (by rwa [h.total, ← hentry]),
      ⟨h.regs, h.transp, h.bp, h.bu, h.dp, h.bus, h.rdata⟩, h.mem, ?_, ?_, ?_⟩
    · show s.mask.zofs ++ [s.sel.total] = _
      rw [h.zofs, h.total, List.range_succ, List.map_append, List.map_singleton, hentry]
    · show s.mask.recs ++ [(s.columnEncoded i).mask.out] = _
      rw [h.recs, hout, List.range_succ, List.map_append, List.map_singleton]
    · show s.sel.total + (s.columnEncoded i).mask.out.length = _
      rw [h.total, hout, maskOffset_succ]

/-- The first columns, all of whose entries fit. -/
theorem sizeColumns_run (h : MaskSizedBelow s₀ 0 s) (n : Nat) (hr : ∀ i < n, s₀.ColumnReachable i)
    (hofs : ∀ i < n, maskEntry s₀.picture s₀.regs.height.toNat s₀.stripes i ≤ 0xFFFF) :
    ∃ t, (eachFrom sizeColumn n 0).run s = .ok () t ∧ MaskSizedBelow s₀ n t := by
  have hloop : Triple (fun _ _ => False) (MaskSizedBelow s₀ 0) (eachFrom sizeColumn n 0) fun _ =>
      MaskSizedBelow s₀ (0 + n) :=
    Triple.each n 0 fun i _ hi t ht => by
      obtain ⟨u, hrun, hu⟩ := ht.step (hr i (by omega)) (hofs i (by omega))
      rw [hrun]
      exact hu
  rw [Nat.zero_add] at hloop
  obtain ⟨_, t, hrun, ht⟩ := hloop.run_ok h
  exact ⟨t, hrun, ht⟩

end

/-- A loop over stripes ends with the first of them that stops (R222). -/
theorem eachFrom_stopped {body : Nat → Act Unit} {n st : Nat} {s t u : State} {e : Stop} (hst : st < n)
    (hbelow : (eachFrom body st 0).run s = .ok () t) (hstop : (body st).run t = .error e u) :
    (eachFrom body n 0).run s = .error e u := by
  obtain ⟨k, rfl⟩ := Nat.exists_eq_add_of_lt hst
  rw [Nat.add_assoc, eachFrom_add, EStateM.run_bind, hbelow, Nat.zero_add]
  show (eachFrom body (k + 1) st).run t = _
  rw [eachFrom_succ, EStateM.run_bind, hstop]

/-! ## `ENC_MASK` -/

/-- Pass 1 of R194 starts with no offset and no record. -/
def State.maskStart (s : State) : State :=
  (s.setSel { s.sel with total := 2 * s.stripes }).setMask { s.mask with zofs := [], recs := [] }

/-- What R194 does once pass 1 has ended. -/
def writeMaskBlob (s : State) : Act Nat := do
  if s.regs.blobSize.toNat < s.sel.total then
    throw (.raise .noSpace)
  else do
    writeBytes s.regs.blobBase.toNat (s.mask.zofs.flatMap fun z => bytesLE 2 z)
    writeBytes (s.regs.blobBase.toNat + 2 * s.stripes) s.mask.recs.flatten
    return s.sel.total

/-- The blob of the offsets and records that pass 1 has found (R78). -/
def State.maskBytes (s : State) : List Byte := (s.mask.zofs.flatMap fun z => bytesLE 2 z) ++ s.mask.recs.flatten

/-- The offset table is written, then the records behind it (R194). -/
theorem writeMaskBlob_run {s : State} (hcount : s.mask.zofs.length = s.stripes) (hfits : s.sel.total ≤ s.regs.blobSize.toNat)
    (hreach : ∀ j < s.maskBytes.length, s.reaches (s.regs.blobBase.toNat + j) = true) :
    (writeMaskBlob s).run s = .ok s.sel.total (s.setMem (s.mem.writes s.regs.blobBase.toNat s.maskBytes)) := by
  have htable : (s.mask.zofs.flatMap fun z => bytesLE 2 z).length = 2 * s.stripes := by
    simp only [List.length_flatMap, bytesLE_length, List.map_const', List.sum_replicate_nat, hcount, Nat.mul_comm]
  have hlen : s.maskBytes.length = 2 * s.stripes + s.mask.recs.flatten.length := by
    rw [State.maskBytes, List.length_append, htable]
  have hoffsets := writeBytes_run (s := s) (a := s.regs.blobBase.toNat) (bs := s.mask.zofs.flatMap fun z => bytesLE 2 z)
    fun j hj => hreach j (by omega)
  have hrecords := writeBytes_run (a := s.regs.blobBase.toNat + 2 * s.stripes) (bs := s.mask.recs.flatten)
    (s := s.setMem (s.mem.writes s.regs.blobBase.toNat (s.mask.zofs.flatMap fun z => bytesLE 2 z))) fun j hj => by
      rw [Nat.add_assoc]
      exact hreach (2 * s.stripes + j) (by omega)
  rw [writeMaskBlob, if_neg (not_lt.mpr hfits), EStateM.run_bind, hoffsets]
  show (do writeBytes (s.regs.blobBase.toNat + 2 * s.stripes) s.mask.recs.flatten; return s.sel.total : Act Nat).run
    (s.setMem (s.mem.writes s.regs.blobBase.toNat (s.mask.zofs.flatMap fun z => bytesLE 2 z))) = _
  rw [EStateM.run_bind, hrecords, State.maskBytes, Memory.writes_append, htable]
  rfl

/-- A mask command at work: what its launch tests have found (R213, R61, R62). -/
structure State.MaskLaunched (s : State) : Prop where
  running : s.Running
  width : s.regs.width.toNat % 8 = 0
  height : s.regs.height ≠ 0
  fit : s.addressesFit s.stripes = true
  disjoint : s.regionsDisjoint s.stripes = true

section
variable {s : State}

theorem State.MaskLaunched.encodeMask_run (hs : s.MaskLaunched) :
    encodeMask.run s = (do eachFrom sizeColumn s.stripes 0; writeMaskBlob (← get) : Act Nat).run s.maskStart := by
  rw [encodeMask, launch_run hs.width hs.height hs.fit hs.disjoint]
  rfl

theorem State.maskStart_sized (s : State) : MaskSizedBelow s 0 s.maskStart :=
  ⟨⟨rfl, rfl, rfl, rfl, rfl, rfl, rfl⟩, rfl, rfl, rfl, rfl⟩

/-- The rows of a launched command's columns lie in the space (R62). -/
theorem State.MaskLaunched.column (hs : s.MaskLaunched) {st : Nat} (hst : st < s.stripes) : s.ColumnReachable st :=
  ⟨hs.running, fun _ hy => (cellAddr_bounds hy hst).2.trans_le (addressesFit_bounds hs.fit (by omega)).1⟩

/-- Where the plane's blob is to be written is reached, when it fits (R62). -/
theorem State.MaskLaunched.blob_reached (hs : s.MaskLaunched) {p : Picture} {h : Nat}
    (hlen : (maskBlob p h s.stripes).length ≤ s.regs.blobSize.toNat) {j : Nat} (hj : j < (maskBlob p h s.stripes).length) :
    s.reaches (s.regs.blobBase.toNat + j) = true := by
  have hstripes : s.stripes ≠ 0 := fun h0 => by
    rw [h0] at hj
    exact absurd hj (Nat.not_lt_zero j)
  obtain ⟨_, hblob⟩ := addressesFit_bounds hs.fit hstripes
  rw [State.blobEnd] at hblob
  exact (State.reaches_iff _ _).mpr ⟨hs.running, by omega⟩

/-- A mask encode ends at the first column whose record would start above 0xFFFF (R194, R221, R222). -/
theorem State.MaskLaunched.encodeMask_range (hs : s.MaskLaunched) {st : Nat} (hst : st < s.stripes)
    (hofs : 0xFFFF < maskEntry s.picture s.regs.height.toNat s.stripes st)
    (hbelow : ∀ j < st, maskEntry s.picture s.regs.height.toNat s.stripes j ≤ 0xFFFF) :
    ∃ t : State, encodeMask.run s = .error (.raise .range) (t.onStripe st) ∧ MaskFrame s (t.onStripe st) ∧
      t.mem = s.mem := by
  obtain ⟨t, hrun, ht⟩ := sizeColumns_run s.maskStart_sized st (fun i hi => hs.column (by omega)) hbelow
  have h0 : ¬ AbsentColumn s.picture s.regs.height.toNat st := fun h0 => by
    rw [(maskEntry_absent s.stripes h0).1] at hofs
    cases hofs
  have hstop := sizeColumn_range (columnReachable_congr ht.regs (hs.column hst))
    (by rwa [picture_congr ht.regs ht.mem, ht.regs]) (by rwa [ht.total, ← (maskEntry_present s.stripes h0).1])
  refine ⟨t, ?_, ⟨ht.regs, ht.transp, ht.bp, ht.bu, ht.dp, ht.bus, ht.rdata⟩, ht.mem⟩
  rw [hs.encodeMask_run, EStateM.run_bind, eachFrom_stopped hst hrun hstop]

/-- A mask encode of which every entry fits writes the plane's blob, or finds that it does not fit and writes nothing
(R194, R215). -/
theorem State.MaskLaunched.encodeMask_blob (hs : s.MaskLaunched)
    (hofs : ∀ st < s.stripes, maskEntry s.picture s.regs.height.toNat s.stripes st ≤ 0xFFFF) {blob : List Byte}
    (hblob : blob = maskBlob s.picture s.regs.height.toNat s.stripes) :
    ∃ t, MaskFrame s t ∧ t.mem = s.mem ∧
      (blob.length ≤ s.regs.blobSize.toNat →
        encodeMask.run s = .ok blob.length (t.setMem (s.mem.writes s.regs.blobBase.toNat blob))) ∧
      (s.regs.blobSize.toNat < blob.length → encodeMask.run s = .error (.raise .noSpace) t) := by
  obtain ⟨t, hrun, ht⟩ := sizeColumns_run s.maskStart_sized s.stripes (fun i hi => hs.column hi) hofs
  have htotal : t.sel.total = blob.length := by rw [ht.total, hblob, maskBlob_length]
  have hbytes : t.maskBytes = blob := by
    rw [State.maskBytes, ht.zofs, ht.recs, List.flatMap_map, ← List.flatMap_def, hblob, maskBlob]
  have hcommand : encodeMask.run s = (writeMaskBlob t).run t := by
    rw [hs.encodeMask_run, EStateM.run_bind, hrun]
    rfl
  refine ⟨t, ht.toMaskFrame, ht.mem, fun hlen => ?_, fun hlong => ?_⟩
  · rw [hcommand, writeMaskBlob_run (by rw [ht.zofs, List.length_map, List.length_range, stripes_congr ht.regs])
      (by rwa [htotal, ht.regs]) fun j hj => ?reach, htotal, hbytes, ht.mem, ht.regs]
    case reach =>
      rw [hbytes, hblob] at hj
      rw [State.reaches, ht.regs]
      exact hs.blob_reached (hblob ▸ hlen) hj
  · rw [hcommand, writeMaskBlob, if_pos (by rwa [htotal, ht.regs])]
    rfl

end

/-- A mask command that can be launched is at work once it has started (R31, R213). -/
theorem State.Launchable.maskLaunched {s : State} {i : Instr} (hstart : s.Startable) (hlaunch : s.Launchable i)
    (hrow : s.rowLen i = s.stripes) : (startCommand s).MaskLaunched := by
  obtain ⟨_, hwidth, hheight⟩ := hstart
  obtain ⟨hfit, hdisjoint⟩ := hlaunch
  exact ⟨rfl, hwidth, hheight, hrow ▸ hfit, hrow ▸ hdisjoint⟩

/-- Settles O54. -/
theorem encodeMaskWritesBlob : Obligations.EncodeMaskWritesBlob := by
  intro s blob hinv hstart hlaunch hblob hofs
  have ⟨hbusy, _, _⟩ := hstart
  obtain ⟨t, ht, hmem, hok, hfull⟩ := (hlaunch.maskLaunched hstart rfl).encodeMask_blob hofs hblob
  have hrising : Memory.risingFrom 0 s.mem = true := (Bool.and_eq_true_iff.mp hinv.mem).1
  refine ⟨fun hlen => ?_, fun hlen => ?_⟩
  · have ht' : MaskFrame (startCommand s) (t.setMem (s.mem.writes s.regs.blobBase.toNat blob)) :=
      ⟨ht.regs, ht.transp, ht.bp, ht.bu, ht.dp, ht.bus, ht.rdata⟩
    exact ⟨_, runCommand_ok hbusy (hok hlen), ht'.completeOk_regs _, Memory.bytes_writes hrising _ _,
      fun a ha => Memory.writes_read_other _ ha, ht.bp, ht.bu, ht.dp, ht.bus, ht.rdata⟩
  · exact ⟨_, runCommand_raise hbusy (hfull hlen), ht.raiseError_regs _, hmem, ht.bp, ht.bu, ht.dp, ht.bus, ht.rdata⟩

/-- Settles O55. -/
theorem maskOffsetOutOfRange : Obligations.MaskOffsetOutOfRange := by
  intro s st hstart hlaunch hst hofs hbelow
  obtain ⟨t, hrun, ht, hmem⟩ := (hlaunch.maskLaunched hstart rfl).encodeMask_range hst hofs hbelow
  exact ⟨_, runCommand_raise hstart.1 hrun, ht.raiseError_regs _, hmem⟩

end Sys2Proof.Machine

namespace Sys2Proof.Machine

/-! ## One stripe of `DEC_MASK` -/

theorem MaskFrame.refl (s : State) : MaskFrame s s := ⟨rfl, rfl, rfl, rfl, rfl, rfl, rfl⟩

theorem MaskFrame.trans {s t u : State} (h : MaskFrame s t) (h' : MaskFrame t u) : MaskFrame s u :=
  ⟨h'.regs.trans h.regs, h'.transp.trans h.transp, h'.bp.trans h.bp, h'.bu.trans h.bu, h'.dp.trans h.dp, h'.bus.trans h.bus,
    h'.rdata.trans h.rdata⟩

section
variable {s : State} {st : Nat}

/-- With a blob of at least one byte, the plane's bytes are no bytes of the blob (R61). -/
theorem State.MaskLaunched.cell_apart (hs : s.MaskLaunched) (hsize : s.regs.blobSize.toNat ≠ 0) {y x : Nat}
    (hy : y < s.regs.height.toNat) (hx : x < s.stripes) :
    s.cellAddr y x < s.regs.blobBase.toNat ∨ s.blobEnd ≤ s.cellAddr y x := by
  obtain ⟨hlow, hhigh⟩ := cellAddr_bounds hy hx
  have hne : s.regs.blobSize ≠ 0 := fun h0 => hsize (congrArg BitVec.toNat h0)
  have hapart := hs.disjoint
  simp only [State.regionsDisjoint, Bool.or_eq_true, decide_eq_true_eq, hne, or_false] at hapart
  rw [State.blobEnd]
  omega

theorem State.MaskLaunched.blobEnd (hs : s.MaskLaunched) (hst : st < s.stripes) : s.blobEnd ≤ Config.addrSpace :=
  (addressesFit_bounds hs.fit (by omega)).2

theorem State.MaskLaunched.columnApart (hs : s.MaskLaunched) (hst : st < s.stripes) (hsize : s.regs.blobSize.toNat ≠ 0) :
    s.ColumnApart st :=
  ⟨hs.running, hs.blobEnd hst, fun y hy => ⟨(hs.column hst).2 y hy, hs.cell_apart hsize hy hst⟩⟩

theorem State.ColumnApart.onStripe (hs : s.ColumnApart st) : (s.onStripe st).ColumnApart st :=
  ⟨hs.running, hs.blob, hs.rows⟩

/-- An offset entry that is not wholly in the blob (R196, R193). -/
theorem decodeMaskStripe_noEntry (hshort : s.regs.blobSize.toNat < 2 * st + 2) :
    (decodeMaskStripe st).run s = .error (.raise .trunc) (s.onStripe st) := by
  show (if s.regs.blobSize.toNat < 2 * st + 2 then throw (.raise .trunc) else _ : Act Unit).run (s.onStripe st) = _
  rw [if_pos hshort]
  rfl

/-- The column of a stripe whose offset entry is in the blob (R196). -/
theorem State.MaskLaunched.decodeMaskStripe_run (hs : s.MaskLaunched) (hst : st < s.stripes)
    (hentry : 2 * st + 2 ≤ s.regs.blobSize.toNat) : (decodeMaskStripe st).run s =
      (if s.maskEntryOf st = 0 then decodeAbsent else decodeColumn st (s.maskEntryOf st) : Act Unit).run
        (s.onStripe st) := by
  have hread : (readLE 2 (s.regs.blobBase.toNat + 2 * st)).run (s.onStripe st) = .ok (s.maskEntryOf st) (s.onStripe st) :=
    (littleEndianReads (s.onStripe st) _ hs.running).1 (by
      have := hs.blobEnd hst
      rw [State.blobEnd] at this
      omega)
  show (if s.regs.blobSize.toNat < 2 * st + 2 then throw (.raise .trunc) else do
    let ofs ← readLE 2 (s.regs.blobBase.toNat + 2 * st)
    if ofs = 0 then decodeAbsent else decodeColumn st ofs : Act Unit).run (s.onStripe st) = _
  rw [if_neg (not_lt.mpr hentry), EStateM.run_bind, hread]

/-- An absent column is zero-filled, or left alone in OR mode (R196, R250). -/
theorem decodeAbsent_run (hr : s.ColumnReachable st) :
    decodeAbsent.run (s.onStripe st) = .ok () ((s.onStripe st).setMem (s.putColumn st s.mem none)) := by
  obtain ⟨hrun, hrows⟩ := hr
  have hzeros := repeatRows_reached 0 s.regs.height.toNat (s := s.onStripe st) (y := 0) hrun fun j _ hj =>
    hrows j (by rwa [Nat.zero_add] at hj)
  show (if s.regs.modeOr then return () else repeatRows 0 s.regs.height.toNat 0 : Act Unit).run (s.onStripe st) = _
  rw [State.putColumn]
  split
  · rfl
  · rw [hzeros, State.putRows_regs (s := s) (t := s.onStripe st) rfl]
    rfl

/-- How one stripe changes the state of a decode: its column alone. -/
structure ColumnPut (s : State) (st : Nat) (x : Option (List MaskRun)) (t : State) : Prop extends MaskFrame s t where
  mem : t.mem = s.putColumn st s.mem x

/-- A stripe that does not end the decode (R196). -/
theorem decodeMaskStripe_found (hs : s.MaskLaunched) (hst : st < s.stripes) {x : Option (List MaskRun)}
    (hfind : s.FindsColumn st x) : ∃ t, (decodeMaskStripe st).run s = .ok () t ∧ ColumnPut s st x t := by
  cases x with
  | none =>
    obtain ⟨htable, hzero⟩ := hfind
    rw [hs.decodeMaskStripe_run hst htable, if_pos hzero, decodeAbsent_run (hs.column hst)]
    exact ⟨_, rfl, ⟨rfl, rfl, rfl, rfl, rfl, rfl, rfl⟩, rfl⟩
  | some runs =>
    obtain ⟨htable, hentry, hruns⟩ := hfind
    have hcolumn : (decodeColumn st (s.maskEntryOf st)).run (s.onStripe st) = _ :=
      decodeColumn_run (s := s.onStripe st) (hs.columnApart hst (by omega)).onStripe hruns
    rw [hs.decodeMaskStripe_run hst htable, if_neg hentry, hcolumn]
    exact ⟨_, rfl, ⟨rfl, rfl, rfl, rfl, rfl, rfl, rfl⟩, State.putRows_regs (s := s) (t := s.onStripe st) rfl _ _ _ _⟩

/-- A record that ends the decode: the rows before stay written (R193, R222). -/
theorem decodeMaskStripe_stopped (hs : s.MaskLaunched) (hst : st < s.stripes) (htable : 2 * st + 2 ≤ s.regs.blobSize.toNat)
    (hentry : s.maskEntryOf st ≠ 0) {runs : List MaskRun} {x : ColumnStop}
    (hstop : s.RunsStop (s.regs.blobBase.toNat + s.maskEntryOf st) runs x) :
    ∃ t, (decodeMaskStripe st).run s = .error (.raise x.err) t ∧ MaskFrame s t ∧ t.sel.stripe = st ∧
      t.mem = s.putRows st 0 (stopRows runs x) s.mem := by
  have hcolumn : (decodeColumn st (s.maskEntryOf st)).run (s.onStripe st) = _ :=
    decodeColumn_stopped (s := s.onStripe st) (hs.columnApart hst (by omega)).onStripe hstop
  rw [hs.decodeMaskStripe_run hst htable, if_neg hentry, hcolumn]
  exact ⟨_, rfl, ⟨rfl, rfl, rfl, rfl, rfl, rfl, rfl⟩, rfl, State.putRows_regs (s := s) (t := s.onStripe st) rfl _ _ _ _⟩

end

/-! ## All stripes of `DEC_MASK` -/

section
variable {s t : State}

theorem putColumn_regs (h : t.regs = s.regs) (st : Nat) (m : Memory) (x : Option (List MaskRun)) :
    t.putColumn st m x = s.putColumn st m x := by
  cases x <;> rw [State.putColumn, State.putColumn, h, State.putRows_regs h]

theorem putColumns_append (s : State) (st : Nat) (xs ys : List (Option (List MaskRun))) (m : Memory) :
    s.putColumns st (xs ++ ys) m = s.putColumns (st + xs.length) ys (s.putColumns st xs m) := by
  induction xs generalizing st m with
  | nil => rfl
  | cons x xs ih =>
    rw [List.cons_append, State.putColumns, State.putColumns, ih, List.length_cons, Nat.add_right_comm, Nat.add_assoc]

/-- The launch tests look at the registers alone. -/
theorem State.MaskLaunched.of_regs (hs : s.MaskLaunched) (h : t.regs = s.regs) : t.MaskLaunched where
  running := by rw [State.Running, h]; exact hs.running
  width := by rw [h]; exact hs.width
  height := by rw [h]; exact hs.height
  fit := by
    rw [State.addressesFit, State.regionEnd, stripes_congr h, h]
    exact hs.fit
  disjoint := by
    rw [State.regionsDisjoint, State.regionEnd, stripes_congr h, h]
    exact hs.disjoint

/-- A decode of the plane leaves every byte of the blob as it was (R61). -/
theorem State.MaskLaunched.bytes_kept (hs : s.MaskLaunched)
    (hcells : ∀ a, ¬ s.Cell .decMask a → t.mem.read a = s.mem.read a) {a n : Nat} (hlow : s.regs.blobBase.toNat ≤ a)
    (hhigh : a + n ≤ s.blobEnd) : t.mem.bytes a n = s.mem.bytes a n := by
  refine Memory.bytes_congr fun b hb hb' => hcells b fun ⟨y, hy, x, hx, hcell⟩ => ?_
  have hapart := hs.cell_apart (by rw [State.blobEnd] at hhigh; omega) hy (show x < s.stripes from hx)
  omega

theorem State.MaskLaunched.maskEntryOf_kept (hs : s.MaskLaunched) (hregs : t.regs = s.regs)
    (hcells : ∀ a, ¬ s.Cell .decMask a → t.mem.read a = s.mem.read a) {st : Nat}
    (htable : 2 * st + 2 ≤ s.regs.blobSize.toNat) : t.maskEntryOf st = s.maskEntryOf st := by
  have hbytes := hs.bytes_kept hcells (a := s.regs.blobBase.toNat + 2 * st) (n := 2) (Nat.le_add_right _ _) (by
    rw [State.blobEnd]
    omega)
  rw [Memory.bytes_succ, Memory.bytes_succ, Memory.bytes_succ, Memory.bytes_succ] at hbytes
  obtain ⟨hlow, hrest⟩ := List.cons.inj hbytes
  obtain ⟨hhigh, _⟩ := List.cons.inj hrest
  rw [State.maskEntryOf, State.maskEntryOf, hregs, hlow, hhigh]

theorem blobEnd_congr (h : t.regs = s.regs) : t.blobEnd = s.blobEnd := by rw [State.blobEnd, State.blobEnd, h]

/-- A decode still finds in the blob what it found there (R61). -/
theorem State.FindsColumn.kept (hs : s.MaskLaunched) (hregs : t.regs = s.regs)
    (hcells : ∀ a, ¬ s.Cell .decMask a → t.mem.read a = s.mem.read a) {st : Nat} {x : Option (List MaskRun)}
    (hfind : s.FindsColumn st x) : t.FindsColumn st x := by
  cases x with
  | none =>
    obtain ⟨htable, hzero⟩ := hfind
    exact ⟨hregs ▸ htable, (hs.maskEntryOf_kept hregs hcells htable).trans hzero⟩
  | some runs =>
    obtain ⟨htable, hentry, hwf, hfill, hfits, hbytes⟩ := hfind
    have hkept := hs.maskEntryOf_kept hregs hcells htable
    refine ⟨hregs ▸ htable, hkept ▸ hentry, hwf, hregs ▸ hfill, ?_, ?_⟩ <;> rw [hkept, hregs]
    · rw [blobEnd_congr hregs]
      exact hfits
    · rw [hs.bytes_kept hcells (Nat.le_add_right _ _) hfits, hbytes]

theorem State.RunsStop.kept (hs : s.MaskLaunched) (hregs : t.regs = s.regs)
    (hcells : ∀ a, ¬ s.Cell .decMask a → t.mem.read a = s.mem.read a) {ofs : Nat} {runs : List MaskRun} {x : ColumnStop}
    (hstop : s.RunsStop (s.regs.blobBase.toNat + ofs) runs x) : t.RunsStop (t.regs.blobBase.toNat + ofs) runs x := by
  obtain ⟨hwf, hshort, hfits, hbytes, hx⟩ := hstop
  have hend := blobEnd_congr hregs
  refine ⟨hwf, hregs ▸ hshort, ?_, ?_, ?_⟩ <;> rw [hregs]
  · rwa [hend]
  · rcases hfits with hfits | hnone
    · rw [hs.bytes_kept hcells (Nat.le_add_right _ _) hfits, hbytes]
    · rw [hnone]
      rfl
  · rwa [hend]

/-- The state after the first stripes of a decode: their columns are put, and nothing but the plane has changed. -/
structure MaskDecodedBelow (s : State) (xs : List (Option (List MaskRun))) (t : State) : Prop extends MaskFrame s t where
  mem : t.mem = s.putColumns 0 xs s.mem
  cells : ∀ a, ¬ s.Cell .decMask a → t.mem.read a = s.mem.read a

theorem MaskDecodedBelow.refl (s : State) : MaskDecodedBelow s [] s := ⟨MaskFrame.refl s, rfl, fun _ _ => rfl⟩

/-- The stripe after the first ones (R196). -/
theorem MaskDecodedBelow.step {xs : List (Option (List MaskRun))} (hs : s.MaskLaunched) (h : MaskDecodedBelow s xs t)
    (hst : xs.length < s.stripes) {x : Option (List MaskRun)} (hfind : s.FindsColumn xs.length x) :
    ∃ u, (decodeMaskStripe xs.length).run t = .ok () u ∧ MaskDecodedBelow s (xs ++ [x]) u := by
  obtain ⟨u, hrun, hu⟩ := decodeMaskStripe_found (hs.of_regs h.regs) (stripes_congr h.regs ▸ hst)
    (hfind.kept hs h.regs h.cells)
  have hframe : Framed (s.Cell .decMask) s u := by
    have hkeeps := decodeMaskStripe_framed hst (s₀ := s) ⟨congrArg Regs.arguments h.regs, h.cells⟩
    rwa [hrun] at hkeeps
  refine ⟨u, hrun, h.toMaskFrame.trans hu.toMaskFrame, ?_, hframe.bytes⟩
  rw [hu.mem, h.mem, putColumn_regs h.regs, putColumns_append, Nat.zero_add]
  rfl

/-- The first stripes of a decode, each without a record or with one that fills its column (R196). -/
theorem decodeMaskStripes_run (hs : s.MaskLaunched) (xs : List (Option (List MaskRun))) (hlen : xs.length ≤ s.stripes)
    (hfinds : ∀ st x, xs[st]? = some x → s.FindsColumn st x) :
    ∃ t, (eachFrom decodeMaskStripe xs.length 0).run s = .ok () t ∧ MaskDecodedBelow s xs t := by
  induction xs using List.reverseRecOn with
  | nil => exact ⟨s, rfl, MaskDecodedBelow.refl s⟩
  | append_singleton xs x ih =>
    rw [List.length_append, List.length_singleton] at hlen ⊢
    obtain ⟨t, hrun, ht⟩ := ih (by omega) fun st y hy => hfinds st y (by
      rwa [List.getElem?_append_left (List.getElem?_eq_some_iff.mp hy).1])
    obtain ⟨u, hstep, hu⟩ := ht.step hs hlen (hfinds xs.length x List.getElem?_concat_length)
    refine ⟨u, ?_, hu⟩
    rw [eachFrom_add, EStateM.run_bind, hrun, Nat.zero_add]
    show (eachFrom decodeMaskStripe 1 xs.length).run t = _
    rw [eachFrom_succ, EStateM.run_bind, hstep]
    rfl

/-! ## `DEC_MASK` -/

theorem State.MaskLaunched.decodeMask_run (hs : s.MaskLaunched) :
    decodeMask.run s = (do eachFrom decodeMaskStripe s.stripes 0; return 0 : Act Nat).run s := by
  rw [decodeMask, launch_run hs.width hs.height hs.fit hs.disjoint]

/-- A decode of which every stripe is found completes (R196). -/
theorem State.MaskLaunched.decodeMask_found (hs : s.MaskLaunched) {xs : List (Option (List MaskRun))}
    (hlen : xs.length = s.stripes) (hfinds : ∀ st x, xs[st]? = some x → s.FindsColumn st x) :
    ∃ t, decodeMask.run s = .ok 0 t ∧ MaskDecodedBelow s xs t := by
  obtain ⟨t, hrun, ht⟩ := decodeMaskStripes_run hs xs hlen.le hfinds
  refine ⟨t, ?_, ht⟩
  rw [hs.decodeMask_run, ← hlen, EStateM.run_bind, hrun]
  rfl

/-- A decode whose next stripe stops stops there (R222). -/
theorem State.MaskLaunched.decodeMask_stopped (hs : s.MaskLaunched) {st : Nat} (hst : st < s.stripes) {t u : State}
    {e : Stop}
    (hbelow : (eachFrom decodeMaskStripe st 0).run s = .ok () t) (hstop : (decodeMaskStripe st).run t = .error e u) :
    decodeMask.run s = .error e u := by
  rw [hs.decodeMask_run, EStateM.run_bind, eachFrom_stopped hst hbelow hstop]

end

end Sys2Proof.Machine

namespace Sys2Proof.Machine

/-! ## `DEC_MASK` as an instruction -/

section
variable {s : State}

/-- The start of a command changes nothing that says where rows are put. -/
theorem putRows_startCommand (s : State) (st y : Nat) (vs : List Byte) (m : Memory) :
    (startCommand s).putRows st y vs m = s.putRows st y vs m := by
  induction vs generalizing y m with
  | nil => rfl
  | cons v vs ih => exact ih _ _

theorem putColumns_startCommand (s : State) (st : Nat) (xs : List (Option (List MaskRun))) (m : Memory) :
    (startCommand s).putColumns st xs m = s.putColumns st xs m := by
  induction xs generalizing st m with
  | nil => rfl
  | cons x xs ih =>
    have hfirst : (startCommand s).putColumn st m x = s.putColumn st m x := by
      cases x with
      | none =>
        rw [State.putColumn, State.putColumn, putRows_startCommand]
        rfl
      | some runs => exact putRows_startCommand s st 0 _ m
    rw [State.putColumns, State.putColumns, hfirst, ih]

/-- The start of a command leaves the blob as it is, and what a decode finds in it. -/
theorem State.FindsColumn.startCommand {st : Nat} {x : Option (List MaskRun)} (h : s.FindsColumn st x) :
    (startCommand s).FindsColumn st x := by
  cases x with
  | none => exact h
  | some runs => exact h

/-- How a mask decode ends: the registers, the plane, and what it never touches. -/
structure MaskDecodeEnds (s : State) (e : Err) (info : Dim) (m : Memory) (t : State) : Prop where
  exec : exec .decMask s = .next t
  regs : t.regs = s.regs.finished e false 0 info 0
  mem : t.mem = m
  bp : t.bp = s.bp
  bu : t.bu = s.bu
  dp : t.dp = s.dp
  bus : t.bus = s.bus
  rdata : t.rdata = s.rdata

/-- A decode of which every stripe is found completes `OK` (R196, R218). -/
theorem exec_decMask_found (hstart : s.Startable) (hlaunch : s.Launchable .decMask) {xs : List (Option (List MaskRun))}
    (hlen : xs.length = s.stripes) (hfinds : ∀ st x, xs[st]? = some x → s.FindsColumn st x) :
    ∃ t, MaskDecodeEnds s .ok 0 (s.putColumns 0 xs s.mem) t := by
  obtain ⟨t, hrun, ht⟩ := (hlaunch.maskLaunched hstart rfl).decodeMask_found hlen fun st x hx =>
    (hfinds st x hx).startCommand
  exact ⟨_, runCommand_ok hstart.1 hrun, ht.completeOk_regs 0, ht.mem.trans (putColumns_startCommand s 0 xs s.mem), ht.bp,
    ht.bu, ht.dp, ht.bus, ht.rdata⟩

/-- A decode that a stripe ends completes with that stripe's error and index, from the state that the stripes before it left
(R193, R212, R222). -/
theorem exec_decMask_stopped (hstart : s.Startable) (hlaunch : s.Launchable .decMask) {xs : List (Option (List MaskRun))}
    (hlen : xs.length < s.stripes) (hfinds : ∀ st x, xs[st]? = some x → s.FindsColumn st x) {e : Err}
    (he : e.namesStripe = true) {put : Memory → Memory}
    (hstop : ∀ t, MaskDecodedBelow (startCommand s) xs t → ∃ u, (decodeMaskStripe xs.length).run t = .error (.raise e) u ∧
      MaskFrame t u ∧ u.sel.stripe = xs.length ∧ u.mem = put t.mem) :
    ∃ t, MaskDecodeEnds s e (BitVec.ofNat Config.dimw xs.length) (put (s.putColumns 0 xs s.mem)) t := by
  have hs := hlaunch.maskLaunched hstart rfl
  obtain ⟨t, hrun, ht⟩ := decodeMaskStripes_run hs xs hlen.le fun st x hx => (hfinds st x hx).startCommand
  obtain ⟨u, hlast, hu, hstripe, hmem⟩ := hstop t ht
  have hframe := ht.toMaskFrame.trans hu
  have hregs := hframe.raiseError_regs e
  rw [if_pos he, hstripe] at hregs
  have hbefore : t.mem = s.putColumns 0 xs s.mem := ht.mem.trans (putColumns_startCommand s 0 xs s.mem)
  exact ⟨_, runCommand_raise hstart.1 (hs.decodeMask_stopped hlen hrun hlast), hregs, hmem.trans (congrArg put hbefore),
    hframe.bp, hframe.bu, hframe.dp, hframe.bus, hframe.rdata⟩

/-- An offset entry beyond the blob ends the decode (R193). -/
theorem exec_decMask_noEntry (hstart : s.Startable) (hlaunch : s.Launchable .decMask) {xs : List (Option (List MaskRun))}
    (hlen : xs.length < s.stripes) (hfinds : ∀ st x, xs[st]? = some x → s.FindsColumn st x)
    (hshort : s.regs.blobSize.toNat < 2 * xs.length + 2) :
    ∃ t, MaskDecodeEnds s .trunc (BitVec.ofNat Config.dimw xs.length) (s.putColumns 0 xs s.mem) t :=
  exec_decMask_stopped hstart hlaunch hlen hfinds rfl (put := id) fun t ht =>
    ⟨_, decodeMaskStripe_noEntry (by rw [ht.regs]; exact hshort), ⟨rfl, rfl, rfl, rfl, rfl, rfl, rfl⟩, rfl, rfl⟩

/-- The errors that end a column name the stripe (R43, R211). -/
theorem ColumnStop.err_namesStripe (x : ColumnStop) : x.err.namesStripe = true := by cases x <;> rfl

/-- A record that breaks off or has a count of 0 ends the decode; the rows before it stay written (R193, R222). -/
theorem exec_decMask_cut (hstart : s.Startable) (hlaunch : s.Launchable .decMask) {xs : List (Option (List MaskRun))}
    (hlen : xs.length < s.stripes) (hfinds : ∀ st x, xs[st]? = some x → s.FindsColumn st x)
    (htable : 2 * xs.length + 2 ≤ s.regs.blobSize.toNat) (hentry : s.maskEntryOf xs.length ≠ 0) {runs : List MaskRun}
    {x : ColumnStop} (hstop : s.RunsStop (s.regs.blobBase.toNat + s.maskEntryOf xs.length) runs x) :
    ∃ t, MaskDecodeEnds s x.err (BitVec.ofNat Config.dimw xs.length)
      (s.putRows xs.length 0 (stopRows runs x) (s.putColumns 0 xs s.mem)) t := by
  have hs := hlaunch.maskLaunched hstart rfl
  refine exec_decMask_stopped hstart hlaunch hlen hfinds x.err_namesStripe
    (put := s.putRows xs.length 0 (stopRows runs x)) fun t ht => ?_
  have hkept : t.maskEntryOf xs.length = s.maskEntryOf xs.length := hs.maskEntryOf_kept ht.regs ht.cells htable
  have hstop' : (startCommand s).RunsStop ((startCommand s).regs.blobBase.toNat + s.maskEntryOf xs.length) runs x := hstop
  obtain ⟨u, hrun, hu, hstripe, hmem⟩ := decodeMaskStripe_stopped (hs.of_regs ht.regs) (stripes_congr ht.regs ▸ hlen)
    (by rw [ht.regs]; exact htable) (hkept ▸ hentry) (hkept ▸ hstop'.kept hs ht.regs ht.cells)
  refine ⟨u, hrun, hu, hstripe, hmem.trans ?_⟩
  rw [State.putRows_regs ht.regs, putRows_startCommand]

end

end Sys2Proof.Machine

namespace Sys2Proof.Machine

/-! ## What a plane's blob holds for a stripe -/

/-- What `DEC_MASK` finds in a plane's blob for a stripe: nothing for a column of zeros, else the runs of R190 (R194). -/
def maskFound (p : Picture) (h st : Nat) : Option (List MaskRun) :=
  if (columnOf p h st).all (fun b => decide (b = 0)) then none else some (maskRuns [] 0 (columnOf p h st))

/-- Two little-endian bytes read back as their number (R52). -/
theorem read_bytesLE_two {m : Memory} {a v : Nat} (hv : v ≤ 0xFFFF) (h : m.bytes a 2 = bytesLE 2 v) :
    (m.read a).toNat + 256 * (m.read (a + 1)).toNat = v := by
  simp only [Memory.bytes_succ, bytesLE, List.cons.injEq] at h
  obtain ⟨h0, h1, _⟩ := h
  rw [h0, h1]
  simp only [BitVec.toNat_ofNat]
  omega

/-- The offset entry of a stripe stands in the blob behind those of the stripes before it (R78). -/
theorem maskBlob_entry (p : Picture) (h : Nat) {n st : Nat} (hst : st < n) : ∃ before after,
    maskBlob p h n = before ++ bytesLE 2 (maskEntry p h n st) ++ after ∧ before.length = 2 * st := by
  obtain ⟨rest, hrange⟩ := range_split hst
  refine ⟨(List.range st).flatMap fun j => bytesLE 2 (maskEntry p h n j),
    (rest.flatMap fun j => bytesLE 2 (maskEntry p h n j)) ++ (List.range n).flatMap (maskRecordOf p h), ?_,
    maskTable_length _ _⟩
  rw [maskBlob]
  conv_lhs => enter [1]; rw [hrange]
  rw [List.flatMap_append, List.flatMap_append, List.flatMap_singleton, List.append_assoc _ (List.flatMap _ rest)]

/-- The record of a stripe stands in the blob at its offset (R78). -/
theorem maskBlob_record (p : Picture) (h : Nat) {n st : Nat} (hst : st < n) : ∃ before after,
    maskBlob p h n = before ++ maskRecordOf p h st ++ after ∧ before.length = maskOffset p h n st := by
  obtain ⟨rest, hrange⟩ := range_split hst
  refine ⟨((List.range n).flatMap fun j => bytesLE 2 (maskEntry p h n j)) ++ (List.range st).flatMap (maskRecordOf p h),
    rest.flatMap (maskRecordOf p h), ?_, ?_⟩
  · rw [maskBlob]
    conv_lhs => enter [2]; rw [hrange]
    rw [List.flatMap_append, List.flatMap_append, List.flatMap_singleton]
    simp only [List.append_assoc]
  · rw [List.length_append, maskTable_length, List.length_flatMap, maskOffset]

section
variable {s : State} {p : Picture} {n st : Nat}

/-- The offset entry and the record of a stripe, where a plane's blob is in memory. -/
theorem maskBlob_in_memory (hlen : (maskBlob p s.regs.height.toNat n).length ≤ s.regs.blobSize.toNat)
    (hblob : s.mem.bytes s.regs.blobBase.toNat (maskBlob p s.regs.height.toNat n).length = maskBlob p s.regs.height.toNat n)
    (hofs : maskEntry p s.regs.height.toNat n st ≤ 0xFFFF) (hst : st < n) :
    2 * st + 2 ≤ s.regs.blobSize.toNat ∧ s.maskEntryOf st = maskEntry p s.regs.height.toNat n st ∧
      maskOffset p s.regs.height.toNat n st + (maskRecordOf p s.regs.height.toNat st).length ≤ s.regs.blobSize.toNat ∧
      s.mem.bytes (s.regs.blobBase.toNat + maskOffset p s.regs.height.toNat n st)
        (maskRecordOf p s.regs.height.toNat st).length = maskRecordOf p s.regs.height.toNat st := by
  obtain ⟨before, after, hsplit, hbefore⟩ := maskBlob_record p s.regs.height.toNat hst
  obtain ⟨before', after', hsplit', hbefore'⟩ := maskBlob_entry p s.regs.height.toNat hst
  have hentry := hblob
  rw [hsplit] at hblob hlen
  rw [hsplit'] at hentry
  have hrecord := Memory.bytes_slice hblob
  have htable := Memory.bytes_slice hentry
  have hsize := congrArg List.length (hsplit.symm.trans hsplit')
  simp only [List.length_append, bytesLE_length] at hlen hsize htable
  rw [hbefore] at hrecord
  rw [hbefore'] at htable
  exact ⟨by omega, read_bytesLE_two hofs htable, by omega, hrecord⟩

/-- A plane's blob in memory holds the records of its columns (R78, R196). -/
theorem findsColumn_of_maskBlob (hlen : (maskBlob p s.regs.height.toNat n).length ≤ s.regs.blobSize.toNat)
    (hblob : s.mem.bytes s.regs.blobBase.toNat (maskBlob p s.regs.height.toNat n).length = maskBlob p s.regs.height.toNat n)
    (hofs : maskEntry p s.regs.height.toNat n st ≤ 0xFFFF) (hst : st < n) :
    s.FindsColumn st (maskFound p s.regs.height.toNat st) := by
  obtain ⟨htable, hentry, hfits, hbytes⟩ := maskBlob_in_memory hlen hblob hofs hst
  by_cases h0 : AbsentColumn p s.regs.height.toNat st
  · rw [maskFound, if_pos h0]
    exact ⟨htable, hentry.trans (maskEntry_absent n h0).1⟩
  · obtain ⟨hoffset, hrecord⟩ := maskEntry_present n h0
    have hrows := maskRuns_rows [] (columnOf p s.regs.height.toNat st)
    rw [List.nil_append] at hrows
    have hruns : runBytes s.regs.height.toNat (maskRuns [] 0 (columnOf p s.regs.height.toNat st)) =
        maskRecordOf p s.regs.height.toNat st := by
      rw [hrecord, maskRecord, columnOf_length]
    rw [maskFound, if_neg h0]
    refine ⟨htable, ?_, maskRuns_wf [] _ Nat.succ_pos', ?_, ?_, ?_⟩
    · rw [hentry, hoffset, maskOffset]
      omega
    · rw [hrows, columnOf_length]
    · rw [hruns, hentry, hoffset, State.blobEnd, Nat.add_assoc]
      exact Nat.add_le_add_left hfits _
    · rw [hruns, hentry, hoffset]
      exact hbytes

end

/-! ## The bytes that a decode of a plane leaves -/

section
variable {s : State}

theorem putRows_rising {m : Memory} (hm : Memory.risingFrom 0 m = true) (st y : Nat) (vs : List Byte) :
    Memory.risingFrom 0 (s.putRows st y vs m) = true := by
  induction vs generalizing y m with
  | nil => exact hm
  | cons v vs ih => exact ih (Memory.risingFrom_write hm (Nat.zero_le _)) _

theorem putColumn_rising {m : Memory} (hm : Memory.risingFrom 0 m = true) (st : Nat) (x : Option (List MaskRun)) :
    Memory.risingFrom 0 (s.putColumn st m x) = true := by
  cases x with
  | none =>
    rw [State.putColumn]
    split
    · exact hm
    · exact putRows_rising hm _ _ _
  | some runs => exact putRows_rising hm _ _ _

theorem putColumns_rising {m : Memory} (hm : Memory.risingFrom 0 m = true) (st : Nat) (xs : List (Option (List MaskRun))) :
    Memory.risingFrom 0 (s.putColumns st xs m) = true := by
  induction xs generalizing st m with
  | nil => exact hm
  | cons x xs ih => exact ih (putColumn_rising hm _ _) _

/-- The byte that a put of `v` leaves where `old` was: `v`, or both OR-ed (R192). -/
def State.rowByte (s : State) (old v : Byte) : Byte := if s.regs.modeOr then old ||| v else v

/-- Rows of a column lie apart (R51). -/
theorem rowAddr_ne (hstride : 0 < s.regs.stride.toNat) {st y y' : Nat} (h : y ≠ y') : s.rowAddr st y ≠ s.rowAddr st y' := by
  intro heq
  refine h (Nat.eq_of_mul_eq_mul_right hstride ?_)
  have hsum : s.regs.pixBase.toNat + y * s.regs.stride.toNat + st =
      s.regs.pixBase.toNat + y' * s.regs.stride.toNat + st := heq
  omega

/-- Each row that is put reads as put. -/
theorem putRows_read (hstride : 0 < s.regs.stride.toNat) {m : Memory} (hm : Memory.risingFrom 0 m = true) {st y j : Nat}
    {vs : List Byte} {v : Byte} (hv : vs[j]? = some v) :
    (s.putRows st y vs m).read (s.rowAddr st (y + j)) = s.rowByte (m.read (s.rowAddr st (y + j))) v := by
  induction vs generalizing y j m with
  | nil => cases hv
  | cons w vs ih =>
    rw [State.putRows]
    cases j with
    | zero =>
      obtain rfl : w = v := Option.some.inj hv
      refine (State.putRows_read_other _ fun j hj _ => rowAddr_ne hstride ?_).trans (Memory.read_write_same hm _ _)
      omega
    | succ j =>
      have hrow := ih (y := y + 1) (j := j) (Memory.risingFrom_write (a := s.rowAddr st y)
        (v := s.rowByte (m.read (s.rowAddr st y)) w) hm (Nat.zero_le _)) hv
      rw [Nat.add_right_comm] at hrow
      refine hrow.trans ?_
      rw [Memory.read_write_other _ _ (rowAddr_ne hstride (by omega))]
      rfl

/-- A column's rows are no bytes of the other columns (R51). -/
theorem putColumn_read_other (hstride : s.stripes ≤ s.regs.stride.toNat) {st y x : Nat} (hst : st < s.stripes)
    (hx : x < s.stripes) (hne : x ≠ st) (m : Memory) (c : Option (List MaskRun)) :
    (s.putColumn st m c).read (s.cellAddr y x) = m.read (s.cellAddr y x) := by
  have hrows (vs : List Byte) : (s.putRows st 0 vs m).read (s.cellAddr y x) = m.read (s.cellAddr y x) :=
    State.putRows_read_other m fun j _ _ heq =>
      hne (cellAddr_column (s := s) (y' := j) (hx.trans_le hstride) (hst.trans_le hstride) heq)
  cases c with
  | none =>
    rw [State.putColumn]
    split
    · rfl
    · exact hrows _
  | some runs => exact hrows _

theorem putColumns_read_other (hstride : s.stripes ≤ s.regs.stride.toNat) {st y x : Nat} {xs : List (Option (List MaskRun))}
    (hend : st + xs.length ≤ s.stripes) (hx : x < s.stripes) (hout : x < st ∨ st + xs.length ≤ x) (m : Memory) :
    (s.putColumns st xs m).read (s.cellAddr y x) = m.read (s.cellAddr y x) := by
  induction xs generalizing st m with
  | nil => rfl
  | cons c xs ih =>
    rw [List.length_cons] at hend hout
    rw [State.putColumns, ih (by omega) (by omega), putColumn_read_other hstride (by omega) hx (by omega)]

/-- A column of the plane is put row by row (R196, R250): a column of zeros overwrites with zeros, or changes nothing. -/
theorem putColumn_maskFound_read (hstride : 0 < s.regs.stride.toNat) {m : Memory} (hm : Memory.risingFrom 0 m = true)
    (p : Picture) {y x : Nat} (hy : y < s.regs.height.toNat) :
    (s.putColumn x m (maskFound p s.regs.height.toNat x)).read (s.cellAddr y x) =
      s.rowByte (m.read (s.cellAddr y x)) (p y x) := by
  have hrow {vs : List Byte} (hv : vs[y]? = some (p y x)) :
      (s.putRows x 0 vs m).read (s.cellAddr y x) = s.rowByte (m.read (s.cellAddr y x)) (p y x) := by
    have hread := putRows_read hstride hm (st := x) (y := 0) hv
    rwa [Nat.zero_add] at hread
  have hpixel : (columnOf p s.regs.height.toNat x)[y]? = some (p y x) := by
    rw [columnOf, List.getElem?_map, List.getElem?_range hy, Option.map_some]
  rw [maskFound]
  split
  · next h0 =>
    have hzero : p y x = 0 := of_decide_eq_true (List.all_eq_true.mp h0 _ (List.mem_of_getElem? hpixel))
    rw [State.putColumn]
    split
    · next hor =>
      rw [State.rowByte, if_pos hor, hzero]
      exact (BitVec.or_zero).symm
    · exact hrow (by rw [List.getElem?_replicate, if_pos hy, hzero])
  · rw [State.putColumn, maskRuns_rows, List.nil_append, List.take_of_length_le (columnOf_length _ _ _).le]
    exact hrow hpixel

/-- The columns of the plane, as a decode of its blob finds them. -/
abbrev maskFounds (s : State) (p : Picture) : List (Option (List MaskRun)) :=
  (List.range s.stripes).map (maskFound p s.regs.height.toNat)

/-- Each byte of the plane is put in its cell, by its own stripe. -/
theorem putColumns_plane_read (hstride : s.stripes ≤ s.regs.stride.toNat) {m : Memory} (hm : Memory.risingFrom 0 m = true)
    (p : Picture) {y x : Nat} (hy : y < s.regs.height.toNat) (hx : x < s.stripes) :
    (s.putColumns 0 (maskFounds s p) m).read (s.cellAddr y x) = s.rowByte (m.read (s.cellAddr y x)) (p y x) := by
  obtain ⟨rest, hrange⟩ := range_split hx
  have hcount := congrArg List.length hrange
  simp only [List.length_append, List.length_range, List.length_singleton] at hcount
  rw [maskFounds, hrange, List.map_append, List.map_append, putColumns_append, putColumns_append, List.map_singleton,
    putColumns_read_other hstride (by simp; omega) hx (by simp)]
  simp only [List.length_map, List.length_range, Nat.zero_add]
  show (s.putColumn x _ (maskFound p s.regs.height.toNat x)).read _ = _
  rw [putColumn_maskFound_read (by omega) (putColumns_rising hm 0 _) p hy,
    putColumns_read_other hstride (by simp; omega) hx (by simp)]

/-- `DEC_MASK` of a plane's blob completes `OK` and puts the plane's bytes (R196, R250). -/
theorem decodeMask_of_maskBlob {p : Picture} (hinv : s.Inv) (hstart : s.Startable) (hlaunch : s.Launchable .decMask)
    (hofs : ∀ st < s.stripes, maskEntry p s.regs.height.toNat s.stripes st ≤ 0xFFFF)
    (hlen : (maskBlob p s.regs.height.toNat s.stripes).length ≤ s.regs.blobSize.toNat)
    (hblob : s.mem.bytes s.regs.blobBase.toNat (maskBlob p s.regs.height.toNat s.stripes).length =
      maskBlob p s.regs.height.toNat s.stripes) (hstride : s.stripes ≤ s.regs.stride.toNat) :
    ∃ t, MaskDecodeEnds s .ok 0 (s.putColumns 0 (maskFounds s p) s.mem) t ∧
      ∀ y < s.regs.height.toNat, ∀ x < s.stripes,
        t.mem.read (s.cellAddr y x) = s.rowByte (s.mem.read (s.cellAddr y x)) (p y x) := by
  have hrising : Memory.risingFrom 0 s.mem = true := (Bool.and_eq_true_iff.mp hinv.mem).1
  obtain ⟨t, ht⟩ := exec_decMask_found hstart hlaunch (xs := maskFounds s p) (by rw [List.length_map, List.length_range])
    fun st x hx => by
      obtain ⟨hlt, rfl⟩ := List.getElem?_eq_some_iff.mp hx
      rw [List.length_map, List.length_range] at hlt
      rw [List.getElem_map, List.getElem_range]
      exact findsColumn_of_maskBlob hlen hblob (hofs st hlt) hlt
  refine ⟨t, ht, fun y hy x hx => ?_⟩
  rw [ht.mem]
  exact putColumns_plane_read hstride hrising p hy hx

end

/-- Settles O56: a plane's blob is one of which every column is found. -/
theorem decodeMaskWritesPlane : Obligations.DecodeMaskWritesPlane := by
  refine ⟨?_, fun s xs _ hstart hlaunch _ hfinds =>
    ⟨fun hlen => ?_, fun hlen hshort => ?_, fun runs x hlen htable hentry hstop => ?_⟩⟩
  · rintro s p _ hinv hstart hlaunch rfl hofs hlen hblob hstride
    obtain ⟨t, ht, hplane⟩ := decodeMask_of_maskBlob hinv hstart hlaunch hofs hlen hblob hstride
    obtain ⟨hothers, _⟩ := decodeFootprint .decMask s t (.inr rfl) hinv ht.exec
    exact ⟨t, ht.exec, ht.regs, hplane, hothers, ht.bp, ht.bu, ht.dp, ht.bus, ht.rdata⟩
  · obtain ⟨t, ht⟩ := exec_decMask_found hstart hlaunch hlen hfinds
    exact ⟨t, ht.exec, ht.regs, ht.mem, ht.bp, ht.bu, ht.dp, ht.bus, ht.rdata⟩
  · obtain ⟨t, ht⟩ := exec_decMask_noEntry hstart hlaunch hlen hfinds hshort
    exact ⟨t, ht.exec, ht.regs, ht.mem, ht.bp, ht.bu, ht.dp, ht.bus, ht.rdata⟩
  · obtain ⟨t, ht⟩ := exec_decMask_cut hstart hlaunch hlen hfinds htable hentry hstop
    exact ⟨t, ht.exec, ht.regs, ht.mem, ht.bp, ht.bu, ht.dp, ht.bus, ht.rdata⟩

end Sys2Proof.Machine

namespace Sys2Proof.Machine

/-! ## `DEC_MASK` after `ENC_MASK` -/

/-- Every command tests its precondition first (R213). -/
theorem commandBody_precond {i : Instr} (hi : IsCommand i) {s : State}
    (hpre : s.regs.width.toNat % 8 ≠ 0 ∨ s.regs.height = 0) : (commandBody i).run s = .error (.raise .precond) s := by
  have hstop (rest : Act Nat) : (checkPrecond >>= fun _ => rest).run s = .error (.raise .precond) s := by
    rw [EStateM.run_bind, checkPrecond_run, if_pos hpre]
  rcases hi with rfl | rfl | rfl | rfl <;> exact hstop _

/-- A command that answers a next state has failed its precondition, or was launched (R213, R61, R62). -/
theorem exec_command_launched {i : Instr} (hi : IsCommand i) {s t : State} (hbusy : s.regs.status.busy = false)
    (h : exec i s = .next t) : t.regs.status.err = .precond ∨ s.Startable ∧ s.Launchable i := by
  by_cases hpre : s.regs.width.toNat % 8 ≠ 0 ∨ s.regs.height = 0
  · rw [exec_command hi, runCommand_raise hbusy (commandBody_precond hi (s := startCommand s) hpre)] at h
    obtain rfl := Host.Outcome.next.inj h
    exact .inl rfl
  · rw [not_or, not_not] at hpre
    have hstart : s.Startable := ⟨hbusy, hpre⟩
    obtain ⟨hrange, hoverlap⟩ := launchPremises i s hi hstart
    by_cases hfit : s.addressesFit (s.rowLen i) = true
    · by_cases hdisjoint : s.regionsDisjoint (s.rowLen i) = true
      · exact .inr ⟨hstart, hfit, hdisjoint⟩
      · rw [hoverlap hfit (Bool.eq_false_iff.mpr hdisjoint)] at h
        cases h
    · rw [hrange (Bool.eq_false_iff.mpr hfit)] at h
      cases h

/-- A mask encode that completes `OK` has written the blob of its plane, of which every entry fits (R194). -/
theorem exec_encMask_ok {s t : State} (hinv : s.Inv) (hbusy : s.regs.status.busy = false) (h : exec .encMask s = .next t)
    (hok : t.regs.status.err = .ok) :
    (∀ st < s.stripes, maskEntry s.picture s.regs.height.toNat s.stripes st ≤ 0xFFFF) ∧
      t.regs.outLen.toNat = (maskBlob s.picture s.regs.height.toNat s.stripes).length ∧
      t.mem.bytes s.regs.blobBase.toNat (maskBlob s.picture s.regs.height.toNat s.stripes).length =
        maskBlob s.picture s.regs.height.toNat s.stripes := by
  obtain ⟨hstart, hlaunch⟩ := (exec_command_launched (.inr (.inr (.inl rfl))) hbusy h).resolve_left fun hpre => by
    rw [hok] at hpre
    cases hpre
  have hofs : ∀ st < s.stripes, maskEntry s.picture s.regs.height.toNat s.stripes st ≤ 0xFFFF := by
    intro st
    induction st using Nat.strong_induction_on with
    | _ st ih =>
      intro hst
      by_contra hout
      obtain ⟨u, hu, hregs, _⟩ := maskOffsetOutOfRange s st hstart hlaunch hst (not_le.mp hout)
        fun j hj => ih j hj (hj.trans hst)
      obtain rfl := Host.Outcome.next.inj (hu.symm.trans h)
      rw [hregs] at hok
      cases hok
  obtain ⟨hfits, hfull⟩ := encodeMaskWritesBlob s _ hinv hstart hlaunch rfl hofs
  have hlen : (maskBlob s.picture s.regs.height.toNat s.stripes).length ≤ s.regs.blobSize.toNat := by
    by_contra hlong
    obtain ⟨u, hu, hregs, _⟩ := hfull (not_le.mp hlong)
    obtain rfl := Host.Outcome.next.inj (hu.symm.trans h)
    rw [hregs] at hok
    cases hok
  obtain ⟨u, hu, hregs, hwritten, _⟩ := hfits hlen
  obtain rfl := Host.Outcome.next.inj (hu.symm.trans h)
  refine ⟨hofs, ?_, hwritten⟩
  rw [hregs]
  exact Nat.mod_eq_of_lt (hlen.trans_lt s.regs.blobSize.isLt)

/-- Settles O58: a decode of what an encode wrote. -/
theorem maskRoundTrip : Obligations.MaskRoundTrip := by
  intro s t r hinv hbusy hexec hok hinvr hstart hlaunch hor hwidth hheight hsize hbytes hstride
  obtain ⟨hofs, hout, hwritten⟩ := exec_encMask_ok hinv hbusy hexec hok
  have hstripes : r.stripes = s.stripes := by rw [State.stripes, State.stripes, hwidth]
  rw [hout, hwritten] at hbytes
  obtain ⟨r', hr', hplane⟩ := decodeMask_of_maskBlob (s := r) (p := s.picture) hinvr hstart hlaunch
    (by rw [hheight, hstripes]; exact hofs) (by rw [hsize, hout, hheight, hstripes])
    (by rw [hheight, hstripes]; exact hbytes) hstride
  refine ⟨r', hr'.exec, by rw [hr'.regs]; rfl, fun y hy x hx => ?_⟩
  rw [hplane y (hheight ▸ hy) x (hstripes ▸ hx), State.rowByte, hor]
  rfl

end Sys2Proof.Machine

namespace Sys2Proof.Machine

/-! ## `CMD` writes of an illegal opcode -/

/-- An opcode other than the four is illegal (R70, R219). -/
theorem decode_cmd_illegal (shr : ShiftWidth) {op : Byte} (hop : op.toNat ∉ [1, 2, 3, 4]) :
    decode .cmd shr [op] = .error (.illegalCommand op) := by
  have hbits : readCommand (streamBits [op]) = .error (.illegalCommand op) := by
    rw [readCommand, streamBits_cons, BitReader.bind_ok (Reads.byte op _)]
    generalize op.toNat = n at hop
    match n, hop with
    | 0, _ => rfl
    | n + 5, _ => rfl
  rw [decode, decodeBits, hbits]

/-- Settles O14: the opcode is the write's low byte, and no command runs that would hide it. -/
theorem illegalOpcodeCompletes : Obligations.IllegalOpcodeCompletes := by
  intro s v hbusy hop
  have hidle : ¬ (s.setBus []).regs.status.busy = true := Bool.eq_false_iff.mp hbusy
  have hdecode := decode_cmd_illegal (s.setBus []).dp.shr (op := v.setWidth 8) (by rwa [BitVec.toNat_setWidth])
  refine step_settled ((fetch_write s 0 v []).trans ?_)
  rw [fetchWrite, if_pos (by decide), if_pos rfl, hdecode, illegalCommand, if_neg hidle]
  rfl

end Sys2Proof.Machine

namespace Sys2Proof.Machine

/-! ## The errors of a decode

A launched decode ends early only where its blob breaks off or is malformed (R171, R178, R193, R222). What an encode raises is
known from its run; that a decode raises nothing else is a walk over the pseudocode of both decodes. -/

/-- An error of a decode is `ERR_TRUNC` or `ERR_FORMAT`. -/
def Stop.blamesBlob : Stop → Bool
  | .raise e => decide (e ∈ [Err.trunc, Err.format])
  | .fault _ | .refuse _ => true

/-- One stripe of a decode (R170, R196). -/
def decodeRound : Instr → Nat → Act Unit
  | .decImage => decodeRecord
  | _ => decodeMaskStripe

/-- Pseudocode that raises errors of a decode only. -/
abbrev BlamesBlob {α : Type} (x : Act α) : Prop := Keeps (fun e _ => e.blamesBlob = true) (fun _ => True) x

namespace BlamesBlob

variable {α β : Type}

theorem pure (a : α) : BlamesBlob (Pure.pure a : Act α) := Triple.pure fun _ h => h

theorem throw {e : Stop} (he : e.blamesBlob = true) : BlamesBlob (MonadExcept.throw e : Act α) :=
  Triple.throw fun _ _ => he

theorem bind {x : Act α} {f : α → Act β} (hx : BlamesBlob x) (hf : ∀ a, BlamesBlob (f a)) : BlamesBlob (x >>= f) :=
  Triple.bind hx hf

theorem get_bind {f : State → Act α} (h : ∀ s, BlamesBlob (f s)) : BlamesBlob (MonadState.get >>= f) :=
  Triple.read_bind fun s _ => h s

theorem ite {c : Prop} [Decidable c] {x y : Act α} (hx : BlamesBlob x) (hy : BlamesBlob y) :
    BlamesBlob (if c then x else y) :=
  Triple.ite (fun _ => hx) fun _ => hy

theorem update (f : State → State) : BlamesBlob (modify f) := Triple.update fun _ h => h

theorem each {body : Nat → Act Unit} (hb : ∀ i, BlamesBlob (body i)) (n i : Nat) : BlamesBlob (eachFrom body n i) :=
  Triple.each (J := fun _ _ => True) n i fun j _ _ => hb j

/-! ### Memory -/

theorem unreached (s : State) : s.unreached.blamesBlob = true := by
  rw [State.unreached]
  split <;> rfl

theorem readByte (a : Nat) : BlamesBlob (Machine.readByte a) := by
  intro s hs
  rw [readByte_run]
  split
  · exact hs
  · exact unreached s

theorem writeByte (a : Nat) (v : Byte) : BlamesBlob (Machine.writeByte a v) :=
  Triple.writeByte (fun s _ => unreached s) fun _ hs _ => hs

theorem readLE (n a : Nat) : BlamesBlob (Machine.readLE n a) := by
  induction n generalizing a with
  | zero => exact pure 0
  | succ n ih => exact (readByte a).bind fun _ => (ih (a + 1)).bind fun _ => pure _

/-! ### Stream codes -/

theorem readNbits (n : Nat) : BlamesBlob (Machine.readNbits n) := by
  have hfill : BlamesBlob unpackerFill := get_bind fun _ => ite ((readByte _).bind fun _ => update _) (pure ())
  exact ite (hfill.bind fun _ => get_bind fun _ => ite (throw rfl) ((update _).bind fun _ => get_bind fun _ => pure _))
    (throw rfl)

theorem put (k : Nat) (c : Byte) : BlamesBlob (Machine.put k c) := get_bind fun _ => ite (pure ()) (writeByte _ _)

theorem putNext : BlamesBlob Machine.putNext := get_bind fun _ => (put _ _).bind fun _ => update _

theorem needPixel : BlamesBlob Machine.needPixel := get_bind fun _ => ite (pure ()) (throw rfl)

theorem applyARep : BlamesBlob Machine.applyARep := needPixel.bind fun _ => putNext

/-- A code that sets the datapath and puts one pixel (R137, R138, R147 to R149). -/
theorem onePixel (f : Datapath → Datapath) : BlamesBlob (do Machine.needPixel; Machine.setDp f; Machine.putNext) :=
  needPixel.bind fun _ => (update _).bind fun _ => putNext

theorem applyARun (n : Byte) : BlamesBlob (Machine.applyARun n) := by
  have hrun (m : Nat) : BlamesBlob (runPixels m) := by
    induction m with
    | zero => exact pure ()
    | succ m ih => exact putNext.bind fun _ => (update _).bind fun _ => ih
  exact ite (throw rfl) (get_bind fun _ => (update _).bind fun _ => hrun _)

theorem decodeCode (f : Family) : BlamesBlob (Machine.decodeCode f) := by
  have hread (n : Nat) := (readNbits n).sim
  have ha : BlamesBlob decodeACode := get_bind fun _ => Keeps.of_sim (Sim.walk_familyA _ hread applyARep.sim
    (fun _ => (onePixel _).sim) (fun _ => (onePixel _).sim) fun n => (applyARun n).sim)
  have hb : BlamesBlob decodeBCode := get_bind fun _ => Keeps.of_sim (Sim.walk_familyB _ hread applyARep.sim
    (fun _ => (onePixel _).sim) (onePixel _).sim (onePixel _).sim)
  cases f
  · exact ha
  · exact ha
  · exact hb
  · exact hb

/-! ### `DEC_IMAGE` -/

theorem decodeStripe (st : Nat) (f : Family) (tr : Bool) : BlamesBlob (Machine.decodeStripe st f tr) := by
  have hfirst : BlamesBlob decodeFirst :=
    (readNbits 8).bind fun _ => (update _).bind fun _ => (put _ _).bind fun _ => update _
  exact (update _).bind fun _ => hfirst.bind fun _ => get_bind fun _ => (decodeCode f).loop _ _

theorem dispatchType (f : Family) (tcap : Bool) (shr : ShiftWidth) : BlamesBlob (Machine.dispatchType f tcap shr) := by
  intro s hs
  rw [dispatchType_run]
  exact decodeStripe _ _ _ hs

theorem fetchType : BlamesBlob Machine.fetchType :=
  get_bind fun _ => ite (throw rfl) <| (readLE _ _).bind fun _ => (update _).bind fun _ => get_bind fun _ =>
    ite (throw rfl) (readByte _)

theorem decodeRecord (st : Nat) : BlamesBlob (Machine.decodeRecord st) := by
  refine (update _).bind fun _ => fetchType.bind fun b => ?_
  rcases decodeType b with _ | ⟨f, tcap, shr⟩
  · exact update _
  · exact dispatchType f tcap shr

/-! ### `DEC_MASK` -/

theorem nextByte : BlamesBlob Machine.nextByte :=
  get_bind fun _ => ite (throw rfl) ((readByte _).bind fun _ => (update _).bind fun _ => pure _)

theorem writeRow (y : Nat) (v : Byte) : BlamesBlob (Machine.writeRow y v) :=
  get_bind fun _ => ite ((readByte _).bind fun _ => writeByte _ _) (writeByte _ _)

theorem repeatRows (v : Byte) (n y : Nat) : BlamesBlob (Machine.repeatRows v n y) := by
  induction n generalizing y with
  | zero => exact pure ()
  | succ n ih => exact (writeRow y v).bind fun _ => ih (y + 1)

theorem literalRows (n y : Nat) : BlamesBlob (Machine.literalRows n y) := by
  induction n generalizing y with
  | zero => exact pure ()
  | succ n ih => exact nextByte.bind fun _ => (writeRow y _).bind fun _ => ih (y + 1)

theorem decodeMaskRun : BlamesBlob Machine.decodeMaskRun := by
  have hrep (n : BitVec 7) (v : Byte) : BlamesBlob (applyMRep n v) :=
    ite (throw rfl) (get_bind fun _ => (repeatRows _ _ _).bind fun _ => update _)
  have hlit (n : BitVec 7) : BlamesBlob (applyMLit n) :=
    ite (throw rfl) (get_bind fun _ => (literalRows _ _).bind fun _ => update _)
  have hreserved : BlamesBlob applyMReserved := throw rfl
  exact Keeps.of_sim (Sim.walk_maskRun nextByte.sim (fun n v => (hrep n v).sim) (fun n => (hlit n).sim) hreserved.sim
    hreserved.sim)

theorem decodeMaskStripe (st : Nat) : BlamesBlob (Machine.decodeMaskStripe st) := by
  have hcolumn (ofs : Nat) : BlamesBlob (decodeColumn st ofs) :=
    (update _).bind fun _ => get_bind fun _ => (update _).bind fun _ => decodeMaskRun.loop _ _
  have habsent : BlamesBlob decodeAbsent := get_bind fun _ => ite (pure ()) (repeatRows _ _ _)
  exact (update _).bind fun _ => get_bind fun _ => ite (throw rfl) <| (readLE _ _).bind fun ofs =>
    ite habsent (hcolumn ofs)

theorem decodeRound (i : Instr) (st : Nat) : BlamesBlob (Machine.decodeRound i st) := by
  unfold Machine.decodeRound
  split
  · exact decodeRecord st
  · exact decodeMaskStripe st

end BlamesBlob

/-! ## Commands that have passed their launch tests -/

section
variable {s t : State} {i : Instr}

/-- A startable command that is not refused was launched (R61, R62). -/
theorem launchable_of_exec (hi : IsCommand i) (hstart : s.Startable) (h : exec i s = .next t) : s.Launchable i := by
  obtain ⟨hrange, hoverlap⟩ := launchPremises i s hi hstart
  have hfit : s.addressesFit (s.rowLen i) = true := Bool.eq_true_of_not_eq_false fun hf => by
    rw [hrange hf] at h
    cases h
  refine ⟨hfit, Bool.eq_true_of_not_eq_false fun hf => ?_⟩
  rw [hoverlap hfit hf] at h
  cases h

/-- A launched decode takes its stripes in turn (R170, R196). -/
theorem commandBody_decode_run (hi : i = .decImage ∨ i = .decMask) (hstart : s.Startable) (hlaunch : s.Launchable i) :
    (commandBody i).run (startCommand s) =
      (do eachFrom (decodeRound i) s.stripes 0; return 0 : Act Nat).run (startCommand s) := by
  obtain ⟨_, hwidth, hheight⟩ := hstart
  obtain ⟨hfit, hdisjoint⟩ := hlaunch
  rcases hi with rfl | rfl
  · exact launch_run (s := startCommand s) (len := fun s => s.regs.width.toNat) hwidth hheight hfit hdisjoint
  · exact launch_run (s := startCommand s) (len := State.stripes) hwidth hheight hfit hdisjoint

/-- A launched decode completes with no error but `ERR_TRUNC` and `ERR_FORMAT` (R171, R178, R193). -/
theorem exec_decode_err (hi : i = .decImage ∨ i = .decMask) (hstart : s.Startable) (hlaunch : s.Launchable i)
    (h : exec i s = .next t) : t.regs.status.err ∈ [Err.ok, .trunc, .format] := by
  have hbody : Triple (fun e _ => e.blamesBlob = true) (fun u => u = startCommand s) (commandBody i) fun _ _ => True := by
    rintro _ rfl
    rw [commandBody_decode_run hi hstart hlaunch]
    exact (BlamesBlob.each (BlamesBlob.decodeRound i) s.stripes 0).bind (fun _ => .pure 0) trivial
  rw [exec_command (by rcases hi with rfl | rfl <;> decide)] at h
  rcases hbody.runCommand rfl h with ⟨hbusy, _⟩ | ⟨n, u, _, rfl⟩ | ⟨e, u, he, rfl⟩
  · exact absurd hbusy (Bool.eq_false_iff.mp hstart.1)
  · exact List.mem_cons_self
  · exact List.mem_cons_of_mem _ (of_decide_eq_true he)

/-- A launched image encode completes with no error but `ERR_NOSPACE` (R156, R215). -/
theorem exec_encImage_launched_err (hstart : s.Startable) (hlaunch : s.Launchable .encImage)
    (h : exec .encImage s = .next t) : t.regs.status.err ∈ [Err.ok, .noSpace] := by
  obtain ⟨hbusy, hwidth, hheight⟩ := hstart
  obtain ⟨hfit, hdisjoint⟩ := hlaunch
  obtain ⟨u, _, hok, hfull⟩ := encodeImage_run (s := startCommand s) rfl hwidth hheight hfit hdisjoint rfl
  rcases le_or_gt (imageBlob s.regs.transpEn s.picture s.regs.height.toNat s.stripes).length s.regs.blobSize.toNat with
    hlen | hlen
  · obtain rfl := Host.Outcome.next.inj ((runCommand_ok hbusy (hok hlen).1).symm.trans h)
    exact List.mem_cons_self
  · obtain rfl := Host.Outcome.next.inj ((runCommand_raise hbusy (hfull hlen).1).symm.trans h)
    exact List.mem_cons_of_mem _ List.mem_cons_self

/-- A launched mask encode completes with no error but `ERR_RANGE` and `ERR_NOSPACE` (R194, R215, R221). -/
theorem exec_encMask_err (hstart : s.Startable) (hlaunch : s.Launchable .encMask) (h : exec .encMask s = .next t) :
    t.regs.status.err ∈ [Err.ok, .range, .noSpace] := by
  have ⟨hbusy, _, _⟩ := hstart
  by_cases hout : ∃ st, st < s.stripes ∧ 0xFFFF < maskEntry s.picture s.regs.height.toNat s.stripes st
  · obtain ⟨hst, hofs⟩ := Nat.find_spec hout
    obtain ⟨u, hu, hregs, _⟩ := maskOffsetOutOfRange s _ hstart hlaunch hst hofs fun j hj =>
      not_lt.mp fun hj' => Nat.find_min hout hj ⟨hj.trans hst, hj'⟩
    obtain rfl := Host.Outcome.next.inj (hu.symm.trans h)
    rw [hregs]
    exact List.mem_cons_of_mem _ List.mem_cons_self
  · obtain ⟨u, _, _, hok, hfull⟩ := (hlaunch.maskLaunched hstart rfl).encodeMask_blob
      (fun st hst => not_lt.mp fun hofs => hout ⟨st, hst, hofs⟩) rfl
    rcases le_or_gt (maskBlob s.picture s.regs.height.toNat s.stripes).length s.regs.blobSize.toNat with hlen | hlen
    · obtain rfl := Host.Outcome.next.inj ((runCommand_ok hbusy (hok hlen)).symm.trans h)
      exact List.mem_cons_self
    · obtain rfl := Host.Outcome.next.inj ((runCommand_raise hbusy (hfull hlen)).symm.trans h)
      exact List.mem_cons_of_mem _ (List.mem_cons_of_mem _ List.mem_cons_self)

/-- A launched command does not complete with `ERR_PRECOND` (R213). -/
theorem exec_launched_ne_precond (hi : IsCommand i) (hstart : s.Startable) (hlaunch : s.Launchable i)
    (h : exec i s = .next t) : t.regs.status.err ≠ .precond := by
  have hother {es : List Err} (hes : .precond ∉ es) (hmem : t.regs.status.err ∈ es) : t.regs.status.err ≠ .precond :=
    fun he => hes (he ▸ hmem)
  rcases hi with rfl | rfl | rfl | rfl
  · exact hother (by decide) (exec_encImage_launched_err hstart hlaunch h)
  · exact hother (by decide) (exec_decode_err (.inl rfl) hstart hlaunch h)
  · exact hother (by decide) (exec_encMask_err hstart hlaunch h)
  · exact hother (by decide) (exec_decode_err (.inr rfl) hstart hlaunch h)

/-! ## Commands without a stripe -/

theorem stripes_eq_zero (hwidth : s.regs.width = 0) : s.stripes = 0 := by
  rw [State.stripes, hwidth]
  rfl

/-- With no stripe no address is formed, and no regions overlap (R61, R62). -/
theorem launchable_of_width_zero (hi : IsCommand i) (hwidth : s.regs.width = 0) : s.Launchable i := by
  have hrow : s.rowLen i = 0 := by
    rcases hi with rfl | rfl | rfl | rfl
    · exact congrArg BitVec.toNat hwidth
    · exact congrArg BitVec.toNat hwidth
    · exact stripes_eq_zero hwidth
    · exact stripes_eq_zero hwidth
  rw [State.Launchable, hrow]
  exact ⟨rfl, rfl⟩

/-- A command without a stripe ends at once: its blob is empty, and there is none to decode (R213). -/
theorem commandBody_of_width_zero (hi : IsCommand i) (hstart : s.Startable) (hwidth : s.regs.width = 0) :
    ∃ t, (commandBody i).run (startCommand s) = .ok 0 t ∧ t.regs = (startCommand s).regs ∧ t.sel.hasTransp = false ∧
      t.mem = s.mem := by
  have hstripes := stripes_eq_zero hwidth
  have hlaunch := launchable_of_width_zero hi hwidth
  have hdecode (hi : i = .decImage ∨ i = .decMask) : (commandBody i).run (startCommand s) = .ok 0 (startCommand s) := by
    rw [commandBody_decode_run hi hstart hlaunch, hstripes]
    rfl
  rcases hi with rfl | rfl | rfl | rfl
  · obtain ⟨_, hmod, hheight⟩ := hstart
    have hblob : [] = imageBlob s.regs.transpEn s.picture s.regs.height.toNat s.stripes := by
      rw [hstripes]
      rfl
    obtain ⟨t, ht, hok, _⟩ := encodeImage_run (s := startCommand s) rfl hmod hheight hlaunch.1 hlaunch.2 hblob
    obtain ⟨hrun, hmem⟩ := hok (Nat.zero_le _)
    exact ⟨t, hrun, ht.regs, ht.transp, hmem⟩
  · exact ⟨_, hdecode (.inl rfl), rfl, rfl, rfl⟩
  · have hblob : [] = maskBlob s.picture s.regs.height.toNat s.stripes := by
      rw [hstripes]
      rfl
    obtain ⟨t, ht, _, hok, _⟩ := (hlaunch.maskLaunched hstart rfl).encodeMask_blob
      (fun st hst => absurd (hstripes ▸ hst : st < 0) (Nat.not_lt_zero st)) hblob
    exact ⟨_, hok (Nat.zero_le _), ht.regs, ht.transp, rfl⟩
  · exact ⟨_, hdecode (.inr rfl), rfl, rfl, rfl⟩

end

/-- Settles O50: the first test decides, and behind it nothing raises `ERR_PRECOND`. -/
theorem commandPrecondition : Obligations.CommandPrecondition := by
  intro i s hi hbusy
  refine ⟨fun hpre => ?_, fun hwidth hheight => ?_, fun hwidth hheight t h => ?_⟩
  · rw [exec_command hi, runCommand_raise hbusy (commandBody_precond hi (s := startCommand s) hpre)]
    rfl
  · have hstart : s.Startable := ⟨hbusy, by rw [hwidth]; rfl, hheight⟩
    obtain ⟨t, hrun, hregs, htransp, hmem⟩ := commandBody_of_width_zero hi hstart hwidth
    refine ⟨completeOk 0 t, ?_, ?_, hmem⟩
    · rw [exec_command hi, runCommand_ok hbusy hrun]
    · rw [completeOk_eq, State.setRegs_regs, hregs, htransp]
      rfl
  · have hstart : s.Startable := ⟨hbusy, hwidth, hheight⟩
    exact exec_launched_ne_precond hi hstart (launchable_of_exec hi hstart h) h

end Sys2Proof.Machine

namespace Sys2Proof.Machine

/-! ## The register window after reset -/

/-- Each register holds zero bits at reset, so its word is zero whatever its layout (the table of R30). -/
theorem readRegister_reset (off : Word) : readRegister State.reset off = 0 := by
  have hstatus : Regs.reset.status.word = 0 := BitVec.eq_of_toNat_eq (Status.word_toNat Regs.reset.status)
  have htransp : 0#23 ++ BitVec.ofBool Regs.reset.transpEn ++ Regs.reset.transpColor = 0 :=
    BitVec.eq_of_toNat_eq (transpWord_toNat _ _)
  have hmode : 0#31 ++ BitVec.ofBool Regs.reset.modeOr = 0 := BitVec.eq_of_toNat_eq (modeWord_toNat _)
  rw [readRegister]
  split
  case h_1 => exact hstatus
  case h_6 => exact htransp
  case h_11 => exact hmode
  case h_15 => rfl
  all_goals exact BitVec.setWidth_zero _ _

/-- Settles O15: the window by `readRegister_reset`, and the flags as `Regs.reset` has them. -/
theorem resetRegistersReadZero : Obligations.ResetRegistersReadZero :=
  ⟨readRegister_reset, rfl, rfl⟩

end Sys2Proof.Machine
